-- ==== Sys2Proof/Word.lean ====
section
/-! DEFINITION. The word types of MKPH: a byte, the 16-bit checksum word and the 32-bit register word (00_scope R8). -/

namespace Sys2Proof

/-- A buffer byte, and the DATA8 operand of SUMB and CRCB (30_encoding R81). -/
abbrev Byte := BitVec 8

/-- The additive checksum and the 16-bit header fields (00_scope R8, 41_header_codec R140). -/
abbrev Half := BitVec 16

/-- A host register, a CRC value, a command word (00_scope R8, 30_encoding R80). -/
abbrev Word := BitVec 32

end Sys2Proof
end

