-- ==== Sys2Proof/Config.lean ====
section
/-! DEFINITION. What one instance of MKPH fixes: the parameters of 00_scope R6, and the free values of 20_memory R64.
The parameters are a record of plain data, which State carries (log entry 1): no step changes it, and a statement about
every state is a statement about every instance. -/

namespace Sys2Proof

/-- LEN_CHECK: the length-validity rule (00_scope R6, 41_header_codec R152). -/
inductive LenCheck where
  | corrected
  | reference
  deriving DecidableEq, Repr

/-- DECODE_MIN_LEN: the smallest block length DECODE accepts; "No other value is admitted" (41_header_codec R156). -/
inductive DecodeMinLen where
  | len76
  | len78
  deriving DecidableEq, Repr

/-- CRC_IMPL: the CRC datapath (40_checksum_engine R106). The serial datapath carries its polynomial P. -/
inductive CrcImpl where
  | table
  | serial (poly : Word)
  deriving DecidableEq, Repr

/-- The parameters of 00_scope R6. BUF_CAP is the value the read-only register 0x38 shows (10_state R35), so it is a
word; its upper bound 2^32 - 1 holds by its width and its lower bound is `Params.WellFormed`. REG_BASE and BUF_BASE are
addresses on the host's bus, whose width no rule gives. -/
structure Params where
  validationWord : Word
  crcTable : Vector Word 256
  lenCheck : LenCheck
  decodeMinLen : DecodeMinLen
  bufCap : Word
  regBase : Nat
  bufBase : Nat
  crcImpl : CrcImpl
  deriving DecidableEq, Repr

/-- The free draws of 20_memory R64: what a result register reads as while a command is in flight. It has no body, so
nothing is known of a draw (log entry 7). State's counter `draws` supplies the argument. -/
opaque Config.draw : Nat → Word

end Sys2Proof
end

