-- ==== Sys2Proof/Syntax.lean ====
section
/-! DEFINITION. The ten commands of the opcode map (30_encoding R82), each with the operand its word carries. -/

namespace Sys2Proof

/-- One constructor per row of spec/opcode_table.json. The one operand in a word is DATA8, an unsigned byte (30_encoding
R81); every other operand comes from LATCH. -/
inductive Instr where
  /-- no operation (42_control R180) -/
  | nop
  /-- clear the additive accumulator (40_checksum_engine R101) -/
  | sumclr
  /-- add one byte to the additive accumulator (40_checksum_engine R102) -/
  | sumb (imm8 : Byte)
  /-- initialise the CRC accumulator (40_checksum_engine R109) -/
  | crcinit
  /-- feed one byte to the CRC accumulator (40_checksum_engine R110) -/
  | crcb (imm8 : Byte)
  /-- additive checksum of the latched range (40_checksum_engine R104) -/
  | sumr
  /-- CRC of the latched range (40_checksum_engine R112) -/
  | crcr
  /-- write a header into the latched block (41_header_codec R145) -/
  | encode
  /-- read and validate the header of the latched block (41_header_codec R150) -/
  | decode
  /-- clear STATUS.OVR (42_control R181) -/
  | clrst
  deriving DecidableEq, Repr

end Sys2Proof
end

