-- ==== Sys2Proof/WellFormed.lean ====
section
/-! DEFINITION. What well-formed means for a command, for a command word and for the parameters of an instance. -/

namespace Sys2Proof

/-- A command is well-formed when its operand is a number 0 to 255 (30_encoding R87). The operand's type is a byte, so
every command is; `CommandWord.wellFormed` is the check on a raw word. -/
def Instr.WellFormed : Instr → Prop
  | .nop => True
  | .sumclr => True
  | .sumb d => d.toNat ≤ 255
  | .crcinit => True
  | .crcb d => d.toNat ≤ 255
  | .sumr => True
  | .crcr => True
  | .encode => True
  | .decode => True
  | .clrst => True

/-- RSV1 (bits 31:16) is 0 (30_encoding R80). -/
def CommandWord.rsv1Zero (w : Word) : Bool := w.extractLsb' 16 16 == 0

/-- RSV0 (bits 7:4) is 0 (30_encoding R80). -/
def CommandWord.rsv0Zero (w : Word) : Bool := w.extractLsb' 4 4 == 0

/-- OP (bits 3:0) is one of the ten operation codes (30_encoding R82, R84). -/
def CommandWord.opDefined (w : Word) : Bool := (w.extractLsb' 0 4).toNat ≤ 9

/-- DATA8 (bits 15:8) is 0 unless OP is that of SUMB or CRCB (30_encoding R80). -/
def CommandWord.data8Allowed (w : Word) : Bool :=
  w.extractLsb' 8 8 == 0 || w.extractLsb' 0 4 == 2 || w.extractLsb' 0 4 == 4

/-- A word is a command word when all four checks of 30_encoding R80 and R84 hold. -/
def CommandWord.wellFormed (w : Word) : Bool :=
  CommandWord.rsv1Zero w && CommandWord.rsv0Zero w && CommandWord.opDefined w && CommandWord.data8Allowed w

/-- The parameters an instance may have: BUF_CAP at least 76 (00_scope R6; its upper bound is the register's width), and
the serial datapath only for a table its polynomial generates (40_checksum_engine R106). -/
structure Params.WellFormed (p : Params) : Prop where
  capMin : 76 ≤ p.bufCap.toNat
  serialTable : ∀ poly, p.crcImpl = .serial poly → ∀ i, Machine.tableEntry p.crcTable i = Machine.tgen poly i

end Sys2Proof
end

