-- ==== Sys2Proof/Decode.lean ====
section
/-! DEFINITION. The opcode map, the decoder of command words and the encoder (30_encoding R80 to R85). A command is a
value written to a register, so no byte order enters (log entry 12). -/

namespace Sys2Proof

/-- Why a word is ILLEGAL (30_encoding R84). The machine reports the one code ILLEGAL_CMD for all of them. -/
inductive IllegalReason where
  /-- RSV1 is not zero -/
  | rsv1
  /-- RSV0 is not zero -/
  | rsv0
  /-- a DATA8 operand on a command that has none -/
  | data8
  /-- OP is 0xA to 0xF -/
  | opcode
  deriving DecidableEq, Repr

/-- What the decoder answers: a command, or ILLEGAL (30_encoding R83: "Decode is total"). -/
inductive Decoded where
  | cmd (i : Instr)
  | illegal (why : IllegalReason)
  deriving DecidableEq, Repr

/-- A command that takes no DATA8: any other DATA8 is illegal (30_encoding R83). -/
def decodePlain (i : Instr) (data8 : Byte) : Decoded :=
  if data8 = 0 then .cmd i else .illegal .data8

/-- Decode on the four fields of a word (30_encoding R80, R83). -/
def decodeFields (rsv1 : Half) (data8 : Byte) (rsv0 op : BitVec 4) : Decoded :=
  if rsv1 ≠ 0 then .illegal .rsv1
  else if rsv0 ≠ 0 then .illegal .rsv0
  else
    match op.toNat with
    | 0 => decodePlain .nop data8
    | 1 => decodePlain .sumclr data8
    | 2 => .cmd (.sumb data8)
    | 3 => decodePlain .crcinit data8
    | 4 => .cmd (.crcb data8)
    | 5 => decodePlain .sumr data8
    | 6 => decodePlain .crcr data8
    | 7 => decodePlain .encode data8
    | 8 => decodePlain .decode data8
    | 9 => decodePlain .clrst data8
    | _ => .illegal .opcode

/-- Decode(W): RSV1 is W[31:16], DATA8 is W[15:8], RSV0 is W[7:4], OP is W[3:0] (30_encoding R83). -/
def decode (w : Word) : Decoded :=
  decodeFields (w.extractLsb' 16 16) (w.extractLsb' 8 8) (w.extractLsb' 4 4) (w.extractLsb' 0 4)

/-- One row of the opcode map: the word's fixed bits (30_encoding R82). -/
structure OpcodeRow where
  mnemonic : String
  pattern : Word
  mask : Word
  deriving DecidableEq, Repr

/-- The row of the opcode map that a command belongs to (30_encoding R82). -/
def Instr.row : Instr → OpcodeRow
  | .nop => ⟨"NOP", 0x00000000, 0xFFFFFFFF⟩
  | .sumclr => ⟨"SUMCLR", 0x00000001, 0xFFFFFFFF⟩
  | .sumb _ => ⟨"SUMB", 0x00000002, 0xFFFF00FF⟩
  | .crcinit => ⟨"CRCINIT", 0x00000003, 0xFFFFFFFF⟩
  | .crcb _ => ⟨"CRCB", 0x00000004, 0xFFFF00FF⟩
  | .sumr => ⟨"SUMR", 0x00000005, 0xFFFFFFFF⟩
  | .crcr => ⟨"CRCR", 0x00000006, 0xFFFFFFFF⟩
  | .encode => ⟨"ENCODE", 0x00000007, 0xFFFFFFFF⟩
  | .decode => ⟨"DECODE", 0x00000008, 0xFFFFFFFF⟩
  | .clrst => ⟨"CLRST", 0x00000009, 0xFFFFFFFF⟩

/-- The ten rows in the map's order (30_encoding R82). -/
def opcodeMap : List OpcodeRow :=
  [Instr.row .nop, Instr.row .sumclr, Instr.row (.sumb 0), Instr.row .crcinit, Instr.row (.crcb 0),
   Instr.row .sumr, Instr.row .crcr, Instr.row .encode, Instr.row .decode, Instr.row .clrst]

/-- A word selects a row when its bits under the mask are the row's (30_encoding R82). -/
def OpcodeRow.selects (r : OpcodeRow) (w : Word) : Bool := w &&& r.mask == r.pattern

/-- The DATA8 operand a command carries, 0 where it has none (30_encoding R80, R81). -/
def Instr.data8 : Instr → Byte
  | .nop => 0
  | .sumclr => 0
  | .sumb d => d
  | .crcinit => 0
  | .crcb d => d
  | .sumr => 0
  | .crcr => 0
  | .encode => 0
  | .decode => 0
  | .clrst => 0

/-- The command word of a command: its row's fixed bits with DATA8 in bits 15:8 (30_encoding R80, R82). -/
def encode (i : Instr) : Word :=
  i.row.pattern ||| (i.data8.setWidth 32 <<< 8)

/-- The command that the decoder reads from a table word of `nbits` bits, the bits above being 0; none where the word is
illegal. -/
def decodeTableWord (nbits w : Nat) : Option Instr :=
  match decode (BitVec.ofNat 32 (w % 2 ^ nbits)) with
  | .cmd i => some i
  | .illegal _ => none

/-- The value of a character as a digit of base 10 or 16. -/
def digitValue (c : Char) : Option Nat :=
  if '0' ≤ c ∧ c ≤ '9' then some (c.toNat - '0'.toNat)
  else if 'a' ≤ c ∧ c ≤ 'f' then some (c.toNat - 'a'.toNat + 10)
  else if 'A' ≤ c ∧ c ≤ 'F' then some (c.toNat - 'A'.toNat + 10)
  else none

/-- A number written in `base`, its digits read from the left onto `acc`. -/
def parseDigits (base : Nat) : List Char → Nat → Option Nat
  | [], acc => some acc
  | c :: cs, acc =>
    match digitValue c with
    | none => none
    | some d => if d < base then parseDigits base cs (acc * base + d) else none

/-- A number in decimal or with `0x` (30_encoding R87). -/
def parseNumber : List Char → Option Nat
  | [] => none
  | '0' :: 'x' :: c :: cs => parseDigits 16 (c :: cs) 0
  | cs => parseDigits 10 cs 0

/-- imm8: "a number 0..255" (30_encoding R87). -/
def parseImm8 (cs : List Char) : Option Byte :=
  match parseNumber cs with
  | none => none
  | some n => if n ≤ 255 then some (BitVec.ofNat 8 n) else none

/-- The command a mnemonic without an operand names (30_encoding R87). -/
def assemblePlain (mnemonic : List Char) : Option Instr :=
  [Instr.nop, .sumclr, .crcinit, .sumr, .crcr, .encode, .decode, .clrst].find?
    (fun i => i.row.mnemonic.toList == mnemonic)

/-- A written command: its mnemonic, and imm8 for SUMB and CRCB only (30_encoding R87). -/
def assemble (mnemonic : List Char) : Option (List Char) → Option Instr
  | none => assemblePlain mnemonic
  | some imm =>
    match parseImm8 imm with
    | none => none
    | some d =>
      [Instr.sumb d, .crcb d].find? (fun i => i.row.mnemonic.toList == mnemonic)

end Sys2Proof
end

