-- ==== Sys2Proof/Machine/State.lean ====
section
/-! DEFINITION. The state of MKPH as plain data (10_state R40), the turns its agents take, the reasons a step can stop,
and the state right after reset. -/

namespace Sys2Proof.Machine

/-- The error codes STATUS.ERRCODE can hold; 6 to 15 are reserved and never produced (60_exceptions R215). -/
inductive ErrCode where
  | none
  | illegalCmd
  | range
  | short
  | lenfield
  | oversize
  deriving DecidableEq, Repr

/-- The fields of STATUS (10_state R23). -/
structure Status where
  busy : Bool
  done : Bool
  err : Bool
  ovr : Bool
  errcode : ErrCode
  deriving DecidableEq, Repr

/-- DEC_VALID.CRC_ST, "tri-state"; code 3 is never written (10_state R30). -/
inductive CrcSt where
  | notEvaluated
  | valid
  | invalid
  deriving DecidableEq, Repr

/-- The report of the last DECODE: the fields of DEC_VW, DEC_HDR, DEC_CHK, DEC_CRC and DEC_VALID (10_state R28 to R30). -/
structure DecReport where
  vw : Word
  version : Byte
  flags : Byte
  length : Half
  spare : Half
  simpleChecksum : Half
  crc : Word
  vwOk : Bool
  verOk : Bool
  lenOk : Bool
  sumOk : Bool
  crcSt : CrcSt
  deriving DecidableEq, Repr

/-- LATCH: the command being performed and its operands (10_state R37). -/
structure Latch where
  word : Word
  base : Word
  len : Word
  paylen : Word
  deriving DecidableEq, Repr

/-- The buffer memory BUF (20_memory R52): the written bytes, at strictly rising offsets. An offset that is not listed is
`unwritten`, and reading it faults (70_reset_and_hazards R248, log entry 11). -/
abbrev Memory := List Host.Cell

/-- The width of a HOST access: 8, 16 or 32 bits (20_memory R50). -/
inductive Width where
  | byte
  | half
  | word
  deriving DecidableEq, Repr

/-- A HOST access at MKPH's ports: the register port takes a 6-bit byte offset, the buffer host port a buffer offset
(20_memory R50). A write carries 32 bits of data, of which an access of `width` uses the low ones (20_memory R54). -/
inductive HostAccess where
  | regRead (off : BitVec 6) (width : Width)
  | regWrite (off : BitVec 6) (width : Width) (v : Word)
  | bufRead (a : Nat) (width : Width)
  | bufWrite (a : Nat) (width : Width) (v : Word)
  deriving DecidableEq, Repr

/-- A HOST access at an address of the host's bus (20_memory R51). -/
inductive BusAccess where
  | read (addr : Nat) (width : Width)
  | write (addr : Nat) (width : Width) (v : Word)
  deriving DecidableEq, Repr

/-- One turn of an agent, or a reset event (00_scope R12, 70_reset_and_hazards R240; log entry 5). -/
inductive Event where
  /-- HOST makes an access at the ports. -/
  | host (a : HostAccess)
  /-- HOST makes an access at a bus address. -/
  | bus (a : BusAccess)
  /-- HOST is in the loop WAIT of 30_encoding R89. -/
  | wait
  /-- The ENGINE may take its step. -/
  | engine
  /-- The rst input is asserted. -/
  | rstAssert
  /-- The rst input is deasserted. -/
  | rstDeassert
  /-- An access by a HOST agent other than the one of this instance (60_exceptions R225). -/
  | secondHost (a : HostAccess)
  deriving DecidableEq, Repr

/-- The state of MKPH (10_state R40) with the parameters of its instance (`params`, log entry 1), the level of the rst
input (20_memory R50), and three fields of the model's own: the turns still to be taken (`agenda`, log entry 5), the values
HOST's reads returned, newest first (`readData`, log entry 15), and the number of free draws made (`draws`, log entry 7). -/
structure State where
  params : Params
  status : Status
  blkBase : Word
  blkLen : Word
  payLen : Word
  sumAcc : Half
  crcAcc : Word
  dec : DecReport
  encLenw : Half
  latch : Latch
  buf : Memory
  rst : Bool
  agenda : List Event
  readData : List Word
  draws : Nat
  deriving DecidableEq, Repr

/-- Why the machine stops with a fault. -/
inductive Fault where
  /-- A byte of BUF that nothing has written is read, by the ENGINE (SUMR, CRCR, ENCODE, DECODE) or by HOST
  (70_reset_and_hazards R248). Safe: "On the chip such a byte holds some value nobody chose". -/
  | unwrittenRead
  /-- HOST accesses BUF while BUSY = 1 (70_reset_and_hazards R247). Safe: the spec says it "errs toward unprovable". -/
  | bufferWhileBusy
  deriving DecidableEq, Repr

/-- Why the model gives an action no meaning. -/
inductive Refusal where
  /-- An instruction that has no meaning yet, by its mnemonic. No arm of exec raises it. -/
  | notModelled (mnemonic : String)
  /-- A register access that is not 32 bits wide at a multiple of 4 (20_memory R55). Safe. -/
  | registerAccess
  /-- A HOST buffer access that is misaligned or passes BUF_CAP (20_memory R56). Safe. -/
  | bufferAccess
  /-- An access by a second HOST agent (60_exceptions R225). Safe. -/
  | secondHost
  /-- A bus address in neither window of MKPH (20_memory R51, log entry 16). Safe. -/
  | notAddressed
  /-- A bus address in both windows, where the platform overlaps them (log entry 16). Safe. -/
  | bothAddressed
  deriving DecidableEq, Repr

/-- STATUS after reset (10_state R40). -/
def Status.reset : Status := ⟨false, false, false, false, .none⟩

/-- The DEC_* registers after reset (10_state R40). -/
def DecReport.reset : DecReport := ⟨0, 0, 0, 0, 0, 0, 0, false, false, false, false, .notEvaluated⟩

/-- LATCH after reset: the spec leaves it unspecified (DESIGN CHOICE 0, log entry 4). -/
def Latch.reset : Latch := ⟨0, 0, 0, 0⟩

/-- The machine right after power-on reset (10_state R40, 70_reset_and_hazards R240, R241), in an instance with the
parameters `defaultParams` (log entries 1 to 3). -/
def State.reset : State where
  params := defaultParams
  status := Status.reset
  blkBase := 0
  blkLen := 0
  payLen := 0
  sumAcc := 0
  crcAcc := 0xFFFFFFFF
  dec := DecReport.reset
  encLenw := 0
  latch := Latch.reset
  buf := []
  rst := false
  agenda := []
  readData := []
  draws := 0

end Sys2Proof.Machine
end

