-- ==== Sys2Proof/Machine/Ops.lean ====
section
/-! DEFINITION. The named operations over the buffer memory and the registers: reads and writes of bytes and little-endian
fields (00_scope R11), completion, `raise Error`, acceptance, and the updates each command makes. -/

namespace Sys2Proof.Machine

/-! ## The buffer memory -/

/-- The byte at an offset, or nothing where it is `unwritten` (20_memory R52). -/
def Memory.read : Memory → Nat → Option Byte
  | [], _ => none
  | c :: cs, a => if c.1 = a then some c.2 else Memory.read cs a

/-- Write one byte, keeping the offsets strictly rising. -/
def Memory.write : Memory → Nat → Byte → Memory
  | [], a, b => [(a, b)]
  | c :: cs, a, b =>
    if a < c.1 then (a, b) :: c :: cs
    else if a = c.1 then (a, b) :: cs
    else c :: Memory.write cs a b

/-- Make the n bytes at a .. a+n-1 `unwritten` (70_reset_and_hazards R241). -/
def Memory.erase (m : Memory) (a n : Nat) : Memory :=
  m.filter (fun c => c.1 < a ∨ a + n ≤ c.1)

/-- The canonical form: offsets strictly rising. -/
abbrev Memory.wf (m : Memory) : Prop := m.Pairwise (fun c d => c.1 < d.1)

/-- Every written byte lies below a bound (20_memory R52). -/
abbrev Memory.below (m : Memory) (bound : Nat) : Prop := ∀ c ∈ m, c.1 < bound

/-- Bytes(a, n): the bytes at a .. a+n-1, nothing if one of them is `unwritten` (00_scope R11). -/
def Memory.readBytes (m : Memory) : Nat → Nat → Option (List Byte)
  | _, 0 => some []
  | a, n + 1 =>
    match m.read a with
    | none => none
    | some b => (Memory.readBytes m (a + 1) n).map (b :: ·)

/-- Write a list of bytes at rising offsets (00_scope R11). -/
def Memory.writeBytes (m : Memory) : Nat → List Byte → Memory
  | _, [] => m
  | a, b :: bs => Memory.writeBytes (m.write a b) (a + 1) bs

/-- The number a list of bytes stands for, least significant byte first (20_memory R53). -/
def leValue : List Byte → Nat
  | [] => 0
  | b :: bs => b.toNat + 256 * leValue bs

/-- The n low bytes of a number, least significant byte first (00_scope R11, MemWrite). -/
def leBytes : Nat → Nat → List Byte
  | 0, _ => []
  | n + 1, v => BitVec.ofNat 8 v :: leBytes n (v / 256)

/-- MemRead(a, n) (00_scope R11). -/
def Memory.readLE (m : Memory) (a n : Nat) : Option Nat := (m.readBytes a n).map leValue

/-- MemWrite(a, n, v) (00_scope R11). -/
def Memory.writeLE (m : Memory) (a n v : Nat) : Memory := m.writeBytes a (leBytes n v)

/-! ## Outcomes -/

/-- The outcome type of every step of this machine. -/
abbrev Outcome := Host.Outcome State Fault Refusal

/-- Run a continuation on bytes that were read, or fault where one was `unwritten` (70_reset_and_hazards R248). -/
def withRead {α : Type} (r : Option α) (k : α → Outcome) : Outcome :=
  match r with
  | none => .fault .unwrittenRead
  | some x => k x

/-! ## The command life cycle -/

/-- Completion: BUSY becomes 0 and DONE becomes 1 (60_exceptions R213). -/
def State.complete (s : State) : State :=
  { s with status := { s.status with busy := false, done := true } }

/-- `raise Error(code)`: ERR and ERRCODE are recorded and the command goes to completion (60_exceptions R214). This is all
that taking an error does: nothing is saved and nothing is entered (60_exceptions R210, R219). -/
def State.raiseError (s : State) (code : ErrCode) : State :=
  State.complete { s with status := { s.status with err := true, errcode := code } }

/-- Acceptance of the word W by an idle machine: LATCH is filled, DONE, ERR and ERRCODE are cleared, BUSY is set
(60_exceptions R212). It is also how HOST recovers from an error (60_exceptions R220). -/
def State.accept (s : State) (w : Word) : State :=
  { s with
    latch := { word := w, base := s.blkBase, len := s.blkLen, paylen := s.payLen }
    status := { s.status with busy := true, done := false, err := false, errcode := .none } }

/-- A CMD write while BUSY = 1: the word is dropped and OVR is set (60_exceptions R212). -/
def State.dropCommand (s : State) : State :=
  { s with status := { s.status with ovr := true } }

/-- A HOST write of the word W to CMD (60_exceptions R212). -/
def State.submit (s : State) (w : Word) : State :=
  if s.status.busy then s.dropCommand else s.accept w

/-- OVR is cleared (42_control R181). -/
def State.clearOvr (s : State) : State :=
  { s with status := { s.status with ovr := false } }

/-! ## Register updates -/

/-- SUM_ACC takes a value (10_state R27). -/
def State.setSum (s : State) (v : Half) : State := { s with sumAcc := v }

/-- CRC_ACC takes a value; CRC_RESULT follows it (10_state R32, R33). -/
def State.setCrc (s : State) (v : Word) : State := { s with crcAcc := v }

/-- What a successful ENCODE leaves: the block, both accumulators and ENC_LENW (41_header_codec R145). -/
def State.setEncoded (s : State) (buf : Memory) (sum : Half) (crc : Word) (lenw : Half) : State :=
  { s with buf := buf, sumAcc := sum, crcAcc := crc, encLenw := lenw }

/-- What a successful DECODE leaves: the whole report at once and both accumulators (41_header_codec R150, R151). -/
def State.setDecoded (s : State) (dec : DecReport) (sum : Half) (crc : Word) : State :=
  { s with dec := dec, sumAcc := sum, crcAcc := crc }

/-- The buffer takes new contents (HOST's writes). -/
def State.setBuf (s : State) (buf : Memory) : State := { s with buf := buf }

/-- HOST's read returns a value (log entry 15). -/
def State.returnRead (s : State) (v : Word) : State := { s with readData := v :: s.readData }

/-- HOST's read returns a free draw under a mask of the bits that can be 1 (20_memory R64, log entry 7). -/
def State.returnDraw (s : State) (mask : Word) : State :=
  { s with readData := (Config.draw s.draws &&& mask) :: s.readData, draws := s.draws + 1 }

end Sys2Proof.Machine
end

