-- ==== Sys2Proof/Machine/Operands.lean ====
section
/-! DEFINITION. The operands of a command, all from LATCH (30_encoding R81), the checks that can raise an error
(60_exceptions R215, R217), and the widths, offsets and addresses of HOST's accesses (20_memory R50 to R56). -/

namespace Sys2Proof.Machine

/-! ## Operands of a command -/

/-- ceil4 (00_scope R10). -/
def ceil4 (l : Nat) : Nat := l / 4 + (if l % 4 ≠ 0 then 1 else 0)

/-- B = LATCH.base. -/
def Latch.b (l : Latch) : Nat := l.base.toNat

/-- N = LATCH.len. -/
def Latch.n (l : Latch) : Nat := l.len.toNat

/-- L = LATCH.paylen. -/
def Latch.l (l : Latch) : Nat := l.paylen.toNat

/-- lengthWords, `ceil4(L) + 1`, before it is known to fit its field (41_header_codec R142). -/
def Latch.lw (l : Latch) : Nat := ceil4 l.l + 1

/-- p = lw * 4 - 4, the block offset of the CRC field ENCODE writes (41_header_codec R142). -/
def Latch.p (l : Latch) : Nat := l.lw * 4 - 4

/-- The RANGE check, on unbounded naturals (20_memory R58). -/
def rangeError (p : Params) (l : Latch) : Option ErrCode :=
  if p.bufCap.toNat < l.b + l.n then some .range else none

/-- The checks of ENCODE in their order (41_header_codec R145, 60_exceptions R217). -/
def encodeError (p : Params) (l : Latch) : Option ErrCode :=
  if p.bufCap.toNat < l.b + l.n then some .range
  else if l.n < hdrFixedLen then some .short
  else if 0xFFFF < l.lw then some .lenfield
  else if l.n < l.lw * 4 then some .oversize
  else none

/-- The checks of DECODE in their order (41_header_codec R150, 60_exceptions R217). -/
def decodeError (p : Params) (l : Latch) : Option ErrCode :=
  if p.bufCap.toNat < l.b + l.n then some .range
  else if l.n < decodeMinBytes p.decodeMinLen then some .short
  else none

/-- Run a command's body where its checks raise nothing, else end it with the error (60_exceptions R214). -/
def withChecks (e : Option ErrCode) (s : State) (body : Outcome) : Outcome :=
  match e with
  | some code => .next (s.raiseError code)
  | none => body

/-! ## HOST's accesses -/

/-- The number of bytes of an access. -/
def Width.bytes : Width → Nat
  | .byte => 1
  | .half => 2
  | .word => 4

/-- The registers of the window, offset 0x3C among them (10_state R21). -/
inductive Reg where
  | cmd
  | status
  | blkBase
  | blkLen
  | payLen
  | sum
  | crcAcc
  | crcResult
  | decVw
  | decHdr
  | decChk
  | decCrc
  | decValid
  | encLenw
  | bufCap
  | reserved
  deriving DecidableEq, Repr

/-- The byte offset of a register (10_state R21). -/
def Reg.offset : Reg → BitVec 6
  | .cmd => 0x00
  | .status => 0x04
  | .blkBase => 0x08
  | .blkLen => 0x0C
  | .payLen => 0x10
  | .sum => 0x14
  | .crcAcc => 0x18
  | .crcResult => 0x1C
  | .decVw => 0x20
  | .decHdr => 0x24
  | .decChk => 0x28
  | .decCrc => 0x2C
  | .decValid => 0x30
  | .encLenw => 0x34
  | .bufCap => 0x38
  | .reserved => 0x3C

/-- The registers in the order of their offsets (10_state R21). -/
def allRegs : List Reg :=
  [.cmd, .status, .blkBase, .blkLen, .payLen, .sum, .crcAcc, .crcResult,
   .decVw, .decHdr, .decChk, .decCrc, .decValid, .encLenw, .bufCap, .reserved]

/-- The register a register-port access reaches: one at the offset, accessed in 32 bits; nothing for an access of another
width or at an offset that is no multiple of 4 (20_memory R55). -/
def regAt (off : BitVec 6) (w : Width) : Option Reg :=
  match w with
  | .byte => none
  | .half => none
  | .word => allRegs.find? (fun r => r.offset == off)

/-- A buffer host access that has a meaning: naturally aligned and inside BUF_CAP (20_memory R56). -/
def bufAccessOk (p : Params) (a : Nat) (w : Width) : Bool :=
  a % w.bytes == 0 && decide (a + w.bytes ≤ p.bufCap.toNat)

/-- Where an access at a bus address arrives (20_memory R51). -/
inductive BusTarget where
  | reg (off : BitVec 6)
  | buf (a : Nat)
  | neither
  | both
  deriving DecidableEq, Repr

/-- The two windows of the host's bus: 64 bytes at REG_BASE and BUF_CAP bytes at BUF_BASE (20_memory R51, log entry 16). -/
def busTarget (p : Params) (addr : Nat) : BusTarget :=
  let inReg := decide (p.regBase ≤ addr ∧ addr < p.regBase + 64)
  let inBuf := decide (p.bufBase ≤ addr ∧ addr < p.bufBase + p.bufCap.toNat)
  match inReg, inBuf with
  | true, true => .both
  | true, false => .reg (BitVec.ofNat 6 (addr - p.regBase))
  | false, true => .buf (addr - p.bufBase)
  | false, false => .neither

end Sys2Proof.Machine
end

