-- ==== Sys2Proof/Machine/Sums.lean ====
section
/-! DEFINITION. The two checksum functions of the Checksum Engine (40_checksum_engine R100, R105, R106). -/

namespace Sys2Proof.Machine

/-- One byte onto the 16-bit sum, which wraps (40_checksum_engine R100). -/
def sumStep (s : Half) (b : Byte) : Half := s + b.setWidth 16

/-- AddSum16 (40_checksum_engine R100). -/
def addSum16 (bs : List Byte) : Half := bs.foldl sumStep 0

/-- CrcStep by table lookup (40_checksum_engine R105). -/
def crcStepTable (t : Vector Word 256) (acc : Word) (b : Byte) : Word :=
  (acc <<< 8) ^^^ tableEntry t ((((acc >>> 24) ^^^ b.setWidth 32) &&& 0xFF).setWidth 8)

/-- One input bit of the bit-serial datapath (40_checksum_engine R106). -/
def serialBit (poly acc : Word) (bit : Bool) : Word :=
  (acc <<< 1) ^^^ (if acc.getLsbD 31 ^^ bit then poly else 0)

/-- CrcStepSerial: the eight input bits, most significant first (40_checksum_engine R106). -/
def crcStepSerial (poly acc : Word) (b : Byte) : Word :=
  [7, 6, 5, 4, 3, 2, 1, 0].foldl (fun a k => serialBit poly a (b.getLsbD k)) acc

/-- CrcStep on the datapath of the instance (40_checksum_engine R105, R106: CRC_IMPL). -/
def crcStep (p : Params) (acc : Word) (b : Byte) : Word :=
  match p.crcImpl with
  | .table => crcStepTable p.crcTable acc b
  | .serial poly => crcStepSerial poly acc b

/-- The CRC's initial accumulator, and its final xor (40_checksum_engine R105). -/
def crcOnes : Word := 0xFFFFFFFF

/-- Crc32Raw (40_checksum_engine R105). -/
def crc32Raw (p : Params) (bs : List Byte) : Word := bs.foldl (crcStep p) crcOnes

/-- Crc32 (40_checksum_engine R105). -/
def crc32 (p : Params) (bs : List Byte) : Word := crc32Raw p bs ^^^ crcOnes

end Sys2Proof.Machine
end

