-- ==== Sys2Proof/Machine/Checksum.lean ====
section
/-! DEFINITION. The checksum engine's commands: SUMCLR, SUMB, SUMR, CRCINIT, CRCB, CRCR (40_checksum_engine). Each ends
with the common completion (60_exceptions R213). -/

namespace Sys2Proof.Machine

/-- SUMCLR (40_checksum_engine R101). -/
def execSumclr (s : State) : Outcome := .next (s.setSum 0).complete

/-- SUMB imm8 (40_checksum_engine R102). -/
def execSumb (d : Byte) (s : State) : Outcome := .next (s.setSum (sumStep s.sumAcc d)).complete

/-- CRCINIT (40_checksum_engine R109). -/
def execCrcinit (s : State) : Outcome := .next (s.setCrc crcOnes).complete

/-- CRCB imm8 (40_checksum_engine R110). -/
def execCrcb (d : Byte) (s : State) : Outcome := .next (s.setCrc (crcStep s.params s.crcAcc d)).complete

/-- SUMR (40_checksum_engine R104). -/
def execSumr (s : State) : Outcome :=
  withChecks (rangeError s.params s.latch) s <|
    withRead (s.buf.readBytes s.latch.b s.latch.n) fun bs =>
      .next (s.setSum (addSum16 bs)).complete

/-- CRCR (40_checksum_engine R112). -/
def execCrcr (s : State) : Outcome :=
  withChecks (rangeError s.params s.latch) s <|
    withRead (s.buf.readBytes s.latch.b s.latch.n) fun bs =>
      .next (s.setCrc (crc32Raw s.params bs)).complete

end Sys2Proof.Machine
end

