-- ==== Sys2Proof/Machine/Flags.lean ====
section
/-! DEFINITION. The flags: the codes and words of STATUS and the DEC_* registers (10_state R23, R28 to R30), length
validity (41_header_codec R152), and what each register of the window reads as (10_state R21). -/

namespace Sys2Proof.Machine

/-- The value of STATUS.ERRCODE (60_exceptions R215). -/
def ErrCode.code : ErrCode → BitVec 4
  | .none => 0
  | .illegalCmd => 1
  | .range => 2
  | .short => 3
  | .lenfield => 4
  | .oversize => 5

/-- The value of DEC_VALID.CRC_ST (10_state R30). -/
def CrcSt.code : CrcSt → BitVec 2
  | .notEvaluated => 0
  | .valid => 1
  | .invalid => 2

/-- STATUS as HOST reads it (10_state R23). -/
def Status.word (t : Status) : Word :=
  0#24 ++ t.errcode.code ++ BitVec.ofBool t.ovr ++ BitVec.ofBool t.err ++ BitVec.ofBool t.done ++ BitVec.ofBool t.busy

/-- DEC_HDR as HOST reads it (10_state R28). -/
def DecReport.hdrWord (d : DecReport) : Word := d.length ++ d.flags ++ d.version

/-- DEC_CHK as HOST reads it (10_state R29). -/
def DecReport.chkWord (d : DecReport) : Word := d.simpleChecksum ++ d.spare

/-- DEC_VALID as HOST reads it (10_state R30). -/
def DecReport.validWord (d : DecReport) : Word :=
  0#26 ++ d.crcSt.code ++ BitVec.ofBool d.sumOk ++ BitVec.ofBool d.lenOk ++ BitVec.ofBool d.verOk ++ BitVec.ofBool d.vwOk

/-- LenValid (41_header_codec R152). -/
def lenValid (c : LenCheck) (ln : Nat) : Bool :=
  match c with
  | .corrected => decide (lenMin ≤ ln ∧ ln ≤ lenMax)
  | .reference => true

/-- What a register reads as when its value is settled (10_state R21 to R36). -/
def State.regValue (s : State) : Reg → Word
  | .cmd => 0
  | .status => s.status.word
  | .blkBase => s.blkBase
  | .blkLen => s.blkLen
  | .payLen => s.payLen
  | .sum => s.sumAcc.setWidth 32
  | .crcAcc => s.crcAcc
  | .crcResult => s.crcAcc ^^^ 0xFFFFFFFF
  | .decVw => s.dec.vw
  | .decHdr => s.dec.hdrWord
  | .decChk => s.dec.chkWord
  | .decCrc => s.dec.crc
  | .decValid => s.dec.validWord
  | .encLenw => s.encLenw.setWidth 32
  | .bufCap => s.params.bufCap
  | .reserved => 0

/-- For the registers a command in flight may be changing, the bits that can read 1; nothing for the registers that read
exactly at all times (20_memory R64, 10_state R21). -/
def Reg.drawMask : Reg → Option Word
  | .cmd => none
  | .status => none
  | .blkBase => none
  | .blkLen => none
  | .payLen => none
  | .sum => some 0x0000FFFF
  | .crcAcc => some 0xFFFFFFFF
  | .crcResult => some 0xFFFFFFFF
  | .decVw => some 0xFFFFFFFF
  | .decHdr => some 0xFFFFFFFF
  | .decChk => some 0xFFFFFFFF
  | .decCrc => some 0xFFFFFFFF
  | .decValid => some 0x0000003F
  | .encLenw => some 0x0000FFFF
  | .bufCap => none
  | .reserved => none

end Sys2Proof.Machine
end

