-- ==== Sys2Proof/Machine/Codec.lean ====
section
/-! DEFINITION. The header codec's commands: ENCODE and DECODE (41_header_codec). B, N, L, lw and p are the names of that
file; a block offset x is the buffer offset B + x. -/

namespace Sys2Proof.Machine

/-! ## ENCODE -/

/-- Steps 1 to 4 of ENCODE: validation word, version, flags, length and spare (41_header_codec R145). -/
def writeFields (vw : Word) (b lw : Nat) (m : Memory) : Memory :=
  let m := m.writeLE (b + 64) 4 vw.toNat
  let m := m.writeLE (b + 68) 1 0
  let m := m.writeLE (b + 69) 1 0
  let m := m.writeLE (b + 70) 2 lw
  m.writeLE (b + 72) 2 0

/-- ENCODE once its checks have passed: steps 1 to 6, each reading the buffer as the steps before left it
(41_header_codec R145, R146). -/
def encodeBlock (s : State) : Outcome :=
  let b := s.latch.b
  let lw := s.latch.lw
  let p := s.latch.p
  let m := writeFields s.params.validationWord b lw s.buf
  withRead (m.readBytes (b + 64) 10) fun header =>
    let sum := addSum16 header
    let m := m.writeLE (b + 74) 2 sum.toNat
    withRead (m.readBytes b p) fun covered =>
      let acc := crc32Raw s.params covered
      let m := m.writeLE (b + p) 4 (acc ^^^ crcOnes).toNat
      .next (s.setEncoded m sum acc (BitVec.ofNat 16 lw)).complete

/-- ENCODE (41_header_codec R145). -/
def execEncode (s : State) : Outcome :=
  withChecks (encodeError s.params s.latch) s (encodeBlock s)

/-- The offsets and lengths of the bytes a successful ENCODE writes (41_header_codec R146). -/
def encodeWriteSet (l : Latch) : List (Nat × Nat) := [(l.b + 64, 12), (l.b + l.p, 4)]

/-! ## DECODE -/

/-- The six fixed fields as DECODE reads them (41_header_codec R150). -/
structure Fields where
  vw : Word
  version : Byte
  flags : Byte
  length : Half
  spare : Half
  simpleChecksum : Half
  deriving DecidableEq, Repr

/-- The reads of the fixed fields (41_header_codec R150). -/
def readFields (m : Memory) (b : Nat) : Option Fields :=
  match m.readLE (b + 64) 4, m.readLE (b + 68) 1, m.readLE (b + 69) 1, m.readLE (b + 70) 2,
      m.readLE (b + 72) 2, m.readLE (b + 74) 2 with
  | some vw, some ver, some fl, some ln, some sp, some sc =>
    some ⟨BitVec.ofNat 32 vw, BitVec.ofNat 8 ver, BitVec.ofNat 8 fl, BitVec.ofNat 16 ln, BitVec.ofNat 16 sp, BitVec.ofNat 16 sc⟩
  | _, _, _, _, _, _ => none

/-- The CRC part of a report: the stored value, the raw CRC and CRC_ST (41_header_codec R150). -/
structure CrcPart where
  stored : Word
  acc : Word
  st : CrcSt
  deriving DecidableEq, Repr

/-- The CRC of a block whose length field is ln: evaluated exactly when `ln != 0 and ln * 4 <= N` (41_header_codec R150,
R153). -/
def readCrcPart (p : Params) (m : Memory) (b n ln : Nat) : Option CrcPart :=
  if ln ≠ 0 ∧ ln * 4 ≤ n then
    match m.readLE (b + (ln * 4 - 4)) 4, m.readBytes b (ln * 4 - 4) with
    | some st, some covered =>
      let stored : Word := BitVec.ofNat 32 st
      let acc := crc32Raw p covered
      some ⟨stored, acc, if stored = acc ^^^ crcOnes then .valid else .invalid⟩
    | _, _ => none
  else some ⟨0, crcOnes, .notEvaluated⟩

/-- The report of one DECODE (41_header_codec R150, R151). -/
def reportOf (p : Params) (f : Fields) (sum : Half) (c : CrcPart) : DecReport where
  vw := f.vw
  version := f.version
  flags := f.flags
  length := f.length
  spare := f.spare
  simpleChecksum := f.simpleChecksum
  crc := c.stored
  vwOk := f.vw == p.validationWord
  verOk := f.version == 0
  lenOk := lenValid p.lenCheck f.length.toNat
  sumOk := f.simpleChecksum == sum
  crcSt := c.st

/-- DECODE once its checks have passed (41_header_codec R150). -/
def decodeBlock (s : State) : Outcome :=
  withRead (readFields s.buf s.latch.b) fun f =>
    withRead (s.buf.readBytes (s.latch.b + 64) 10) fun header =>
      withRead (readCrcPart s.params s.buf s.latch.b s.latch.n f.length.toNat) fun c =>
        let sum := addSum16 header
        .next (s.setDecoded (reportOf s.params f sum c) sum c.acc).complete

/-- DECODE (41_header_codec R150). -/
def execDecode (s : State) : Outcome :=
  withChecks (decodeError s.params s.latch) s (decodeBlock s)

end Sys2Proof.Machine
end

