-- ==== Sys2Proof/Machine/Control.lean ====
section
/-! DEFINITION. The control commands NOP and CLRST (42_control). -/

namespace Sys2Proof.Machine

/-- NOP: nothing but the common completion (42_control R180). -/
def execNop (s : State) : Outcome := .next s.complete

/-- CLRST (42_control R181). -/
def execClrst (s : State) : Outcome := .next s.clearOvr.complete

end Sys2Proof.Machine
end

