-- ==== Sys2Proof/Machine/Dispatch.lean ====
section
/-! DEFINITION. One arm per command: the performance of 60_exceptions R213 once the word is decoded. -/

namespace Sys2Proof.Machine

def exec (i : Instr) (s : State) : Host.Outcome State Fault Refusal :=
  match i with
  | .nop => Sys2Proof.Machine.execNop s
  | .sumclr => Sys2Proof.Machine.execSumclr s
  | .sumb imm8 => Sys2Proof.Machine.execSumb imm8 s
  | .crcinit => Sys2Proof.Machine.execCrcinit s
  | .crcb imm8 => Sys2Proof.Machine.execCrcb imm8 s
  | .sumr => Sys2Proof.Machine.execSumr s
  | .crcr => Sys2Proof.Machine.execCrcr s
  | .encode => Sys2Proof.Machine.execEncode s
  | .decode => Sys2Proof.Machine.execDecode s
  | .clrst => Sys2Proof.Machine.execClrst s

end Sys2Proof.Machine
end

