-- ==== Sys2Proof/Machine/Engine.lean ====
section
/-! DEFINITION. The ENGINE's one step (60_exceptions R213). -/

namespace Sys2Proof.Machine

/-- Performance of the command in LATCH: an ILLEGAL word raises ILLEGAL_CMD, any other runs (60_exceptions R213). -/
def engineStep (s : State) : Outcome :=
  match decode s.latch.word with
  | .cmd i => exec i s
  | .illegal _ => .next (s.raiseError .illegalCmd)

/-- The ENGINE's turn: its step is "enabled exactly when STATUS.BUSY = 1" (60_exceptions R213, R227). -/
def engineTurn (s : State) : Outcome :=
  if s.status.busy then engineStep s else .next s

end Sys2Proof.Machine
end

