-- ==== Sys2Proof/Machine/HostPort.lean ====
section
/-! DEFINITION. HOST's accesses at the register port, the buffer host port and the bus (20_memory R50 to R56, R64), and the
reset event (70_reset_and_hazards R240, R241). -/

namespace Sys2Proof.Machine

/-! ## The register port -/

/-- A 32-bit read of a register: exact, but a free draw of a result register while BUSY = 1 (20_memory R64). -/
def State.regRead (s : State) (r : Reg) : State :=
  match s.status.busy, r.drawMask with
  | true, some mask => s.returnDraw mask
  | _, _ => s.returnRead (s.regValue r)

/-- A 32-bit write of a register: CMD submits a command, the operand registers take the value, every other write is
ignored (20_memory R55, 10_state R21). -/
def State.regWrite (s : State) (r : Reg) (v : Word) : State :=
  match r with
  | .cmd => s.submit v
  | .blkBase => { s with blkBase := v }
  | .blkLen => { s with blkLen := v }
  | .payLen => { s with payLen := v }
  | .status => s
  | .sum => s
  | .crcAcc => s
  | .crcResult => s
  | .decVw => s
  | .decHdr => s
  | .decChk => s
  | .decCrc => s
  | .decValid => s
  | .encLenw => s
  | .bufCap => s
  | .reserved => s

/-- A register-port read (20_memory R55). -/
def hostRegRead (off : BitVec 6) (w : Width) (s : State) : Outcome :=
  match regAt off w with
  | none => .refused .registerAccess
  | some r => .next (s.regRead r)

/-- A register-port write (20_memory R55). While rst is asserted the registers hold their reset values and the write is
ignored (70_reset_and_hazards R240, log entry 9). -/
def hostRegWrite (off : BitVec 6) (w : Width) (v : Word) (s : State) : Outcome :=
  match regAt off w with
  | none => .refused .registerAccess
  | some r => .next (if s.rst then s else s.regWrite r v)

/-! ## The buffer host port -/

/-- A buffer read by HOST, little-endian (20_memory R54, R56); forbidden while BUSY = 1 (R64, log entry 10). -/
def hostBufRead (a : Nat) (w : Width) (s : State) : Outcome :=
  if s.status.busy then .fault .bufferWhileBusy
  else if bufAccessOk s.params a w then
    withRead (s.buf.readLE a w.bytes) fun v => .next (s.returnRead (BitVec.ofNat 32 v))
  else .refused .bufferAccess

/-- A buffer write by HOST, little-endian (20_memory R54, R56); forbidden while BUSY = 1 (R64, log entry 10). -/
def hostBufWrite (a : Nat) (w : Width) (v : Word) (s : State) : Outcome :=
  if s.status.busy then .fault .bufferWhileBusy
  else if bufAccessOk s.params a w then .next (s.setBuf (s.buf.writeLE a w.bytes v.toNat))
  else .refused .bufferAccess

/-- A HOST access at the ports. -/
def hostAccess (a : HostAccess) (s : State) : Outcome :=
  match a with
  | .regRead off w => hostRegRead off w s
  | .regWrite off w v => hostRegWrite off w v s
  | .bufRead x w => hostBufRead x w s
  | .bufWrite x w v => hostBufWrite x w v s

/-! ## The bus -/

/-- A HOST access at a bus address (20_memory R51, log entry 16). -/
def busAccess (a : BusAccess) (s : State) : Outcome :=
  match a with
  | .read addr w =>
    match busTarget s.params addr with
    | .reg off => hostRegRead off w s
    | .buf x => hostBufRead x w s
    | .neither => .refused .notAddressed
    | .both => .refused .bothAddressed
  | .write addr w v =>
    match busTarget s.params addr with
    | .reg off => hostRegWrite off w v s
    | .buf x => hostBufWrite x w v s
    | .neither => .refused .notAddressed
    | .both => .refused .bothAddressed

/-! ## WAIT -/

/-- One round of WAIT: `RD STATUS`; while it shows BUSY = 1 the loop goes on, after an ENGINE turn (30_encoding R89,
70_reset_and_hazards R252, log entry 6). -/
def State.waitRound (s : State) : State :=
  let t := s.regRead .status
  if s.status.busy then { t with agenda := .engine :: .wait :: t.agenda } else t

/-! ## Reset -/

/-- BUF after a reset: kept, but the write set of an abandoned ENCODE becomes `unwritten` (70_reset_and_hazards R241). An
ENCODE whose checks raise an error writes nothing, so abandoning it changes nothing (log entry 13). -/
def State.bufAfterReset (s : State) : Memory :=
  if s.status.busy ∧ decode s.latch.word = .cmd .encode ∧ encodeError s.params s.latch = none then
    (encodeWriteSet s.latch).foldl (fun m r => m.erase r.1 r.2) s.buf
  else s.buf

/-- The rst input is asserted: every register takes its reset value and a command in flight is abandoned
(70_reset_and_hazards R240, R241). The instance's parameters, HOST's agenda and what HOST has read are not of the block. -/
def State.assertReset (s : State) : State :=
  { State.reset with
    params := s.params
    buf := s.bufAfterReset
    rst := true
    agenda := s.agenda
    readData := s.readData
    draws := s.draws }

/-- The rst input is deasserted (70_reset_and_hazards R243). -/
def State.deassertReset (s : State) : State := { s with rst := false }

end Sys2Proof.Machine
end

