-- ==== Sys2Proof/Machine/Turn.lean ====
section
/-! DEFINITION. One turn of the machine: the next entry of the agenda, or the ENGINE's step when the agenda is used up
(log entry 5). -/

namespace Sys2Proof.Machine

/-- What one entry of the agenda does. -/
def perform (e : Event) (s : State) : Outcome :=
  match e with
  | .host a => hostAccess a s
  | .bus a => busAccess a s
  | .wait => .next s.waitRound
  | .engine => engineTurn s
  | .rstAssert => .next s.assertReset
  | .rstDeassert => .next s.deassertReset
  | .secondHost _ => .refused .secondHost

/-- The next turn. With nothing left on the agenda the ENGINE completes a command in flight (70_reset_and_hazards R252),
and an idle machine stays as it is (60_exceptions R227). -/
def takeTurn (s : State) : Outcome :=
  match s.agenda with
  | [] => engineTurn s
  | e :: rest => perform e { s with agenda := rest }

/-- A command word put where the next step performs it: accepted as 60_exceptions R212 says, with the ENGINE's turn next
(log entry 8). -/
def State.placeCommand (s : State) (w : Word) : State :=
  { s.accept w with agenda := .engine :: s.agenda }

/-- Commands performed one after another, stopping at the first that does not answer a next state. -/
def runCommands : List Instr → State → Outcome
  | [], s => .next s
  | i :: is, s =>
    match exec i s with
    | .next t => runCommands is t
    | .fault f => .fault f
    | .refused r => .refused r

end Sys2Proof.Machine
end

