-- ==== Sys2Proof/Machine/Step.lean ====
section
/-! DEFINITION. The step of the machine, and how a command word is placed for it. -/

namespace Sys2Proof.Machine

/-- One step: the next turn of HOST, of the ENGINE or of reset. -/
def step (s : State) : Host.Outcome State Fault Refusal := takeTurn s

/-- s with the table word of `nbits` bits accepted as the command in flight and the ENGINE's turn next, so that the very
next step performs it (log entry 8). -/
def State.withFetchWord (s : State) (nbits w : Nat) : State :=
  s.placeCommand (BitVec.ofNat 32 (w % 2 ^ nbits))

end Sys2Proof.Machine
end

