-- ==== Sys2Proof/Safety.lean ====
section
/-! DEFINITION. The invariant of the machine and what counts as a safe run, in the terms the statements use. -/

namespace Sys2Proof.Machine

/-- The flags of STATUS agree: "BUSY and DONE are never both 1" (10_state R23); ERR is 1 exactly when ERRCODE is not NONE
(60_exceptions R214, R215); ERR is only of a completed command. -/
structure Status.Legal (t : Status) : Prop where
  notBusyDone : ¬ (t.busy = true ∧ t.done = true)
  errIff : t.err = true ↔ t.errcode ≠ .none
  errDone : t.err = true → t.done = true

/-- The report agrees with itself: a flag that is 1 is backed by the raw value beside it (41_header_codec R150, R152). -/
structure DecReport.Agrees (p : Params) (d : DecReport) : Prop where
  vw : d.vwOk = true → d.vw = p.validationWord
  version : d.verOk = true → d.version = 0
  length : d.lenOk = true → lenValid p.lenCheck d.length.toNat = true
  crc : d.crcSt = .notEvaluated → d.crc = 0

/-- The registers at their reset values (10_state R40). -/
structure State.RegistersReset (s : State) : Prop where
  status : s.status = Status.reset
  blkBase : s.blkBase = 0
  blkLen : s.blkLen = 0
  payLen : s.payLen = 0
  sumAcc : s.sumAcc = 0
  crcAcc : s.crcAcc = 0xFFFFFFFF
  dec : s.dec = DecReport.reset
  encLenw : s.encLenw = 0

/-- What every step keeps. -/
structure State.Inv (s : State) : Prop where
  params : s.params.WellFormed
  canonical : s.buf.wf
  bounded : s.buf.below s.params.bufCap.toNat
  status : s.status.Legal
  report : s.dec.Agrees s.params
  held : s.rst = true → s.RegistersReset

/-! ## The words of the statements -/

/-- STATUS after a command that raised nothing: BUSY 0, DONE 1, the rest as it was (60_exceptions R213). -/
def Status.finished (t : Status) : Status := { t with busy := false, done := true }

/-- STATUS after a command that raised an error (60_exceptions R213, R214). -/
def Status.failed (t : Status) (code : ErrCode) : Status :=
  { busy := false, done := true, err := true, ovr := t.ovr, errcode := code }

/-- STATUS after acceptance (60_exceptions R212). -/
def Status.accepted (t : Status) : Status := { busy := true, done := false, err := false, ovr := t.ovr, errcode := .none }

/-- The bytes bs stand in the memory from offset a on. -/
def Memory.Holds (m : Memory) (a : Nat) (bs : List Byte) : Prop := ∀ k (h : k < bs.length), m.read (a + k) = some bs[k]

/-- The header byte ENCODE writes at block offset x, 64 to 75, for the validation word vw, the length lw and the sum
(41_header_codec R140, R145). -/
def headerByte (vw : Word) (lw : Nat) (sum : Half) (x : Nat) : Byte :=
  match x with
  | 64 => vw.extractLsb' 0 8
  | 65 => vw.extractLsb' 8 8
  | 66 => vw.extractLsb' 16 8
  | 67 => vw.extractLsb' 24 8
  | 70 => BitVec.ofNat 8 lw
  | 71 => BitVec.ofNat 8 (lw / 256)
  | 74 => sum.extractLsb' 0 8
  | 75 => sum.extractLsb' 8 8
  | _ => 0

/-- HdrSum(lw) (41_header_codec R143). -/
def hdrSum (vw : Word) (lw : Nat) : Half :=
  BitVec.ofNat 16 ((vw.extractLsb' 0 8).toNat + (vw.extractLsb' 8 8).toNat + (vw.extractLsb' 16 8).toNat +
    (vw.extractLsb' 24 8).toNat + lw % 256 + lw / 256 % 256)

/-- The CRC by table lookup, whatever the datapath of the instance: Crc32Raw of 40_checksum_engine R105. -/
def crcRawByTable (t : Vector Word 256) (bs : List Byte) : Word := bs.foldl (crcStepTable t) 0xFFFFFFFF

/-- An outcome with its state changed. -/
def mapNext (f : State → State) (o : Outcome) : Outcome :=
  match o with
  | .next s => .next (f s)
  | .fault r => .fault r
  | .refused r => .refused r

/-- The same instance with the table datapath. -/
def State.withTableDatapath (s : State) : State := { s with params := { s.params with crcImpl := .table } }

/-- A word of one of the illegal forms of 30_encoding R84: OP 0xA to 0xF, a reserved field that is not zero, or a DATA8 that
is not zero on a command other than SUMB (OP 2) and CRCB (OP 4). -/
def IllegalForm (w : Word) : Prop :=
  10 ≤ (w.extractLsb' 0 4).toNat ∨ w.extractLsb' 4 4 ≠ 0 ∨ w.extractLsb' 16 16 ≠ 0 ∨
    (w.extractLsb' 0 4 ≠ 2 ∧ w.extractLsb' 0 4 ≠ 4 ∧ w.extractLsb' 8 8 ≠ 0)

/-- A HOST buffer access that has a meaning (20_memory R56). -/
def LegalBufferAccess (cap a : Nat) (w : Width) : Prop :=
  match w with
  | .byte => a < cap
  | .half => a % 2 = 0 ∧ a + 2 ≤ cap
  | .word => a % 4 = 0 ∧ a + 4 ≤ cap

/-- The next turn is a HOST write of the word w to CMD, at the register port or at CMD's bus address. -/
def State.CmdWriteNext (s : State) (w : Word) : Prop :=
  ∃ rest, s.agenda = .host (.regWrite 0x00 .word w) :: rest ∨
    ∃ addr, s.agenda = .bus (.write addr .word w) :: rest ∧ busTarget s.params addr = .reg 0x00

/-- The next turn is the ENGINE's. -/
def State.EngineNext (s : State) : Prop := s.agenda = [] ∨ ∃ rest, s.agenda = .engine :: rest

/-- k turns of the machine. -/
def run (k : Nat) (s : State) : Outcome := Host.Core.run Sys2Proof.core k s

/-- An outcome is safe when the machine goes on. -/
def Safe (o : Outcome) : Prop := ∃ t, o = .next t

/-- A run of k steps is safe when it reaches no fault and no refusal. -/
def SafeRun (k : Nat) (s : State) : Prop := Safe (run k s)

end Sys2Proof.Machine
end

