-- ==== Sys2Proof/Certificates/Slice0/Obligations.lean ====
section
/-! DEFINITION. The statements made of the model, each from the rules of the spec its docstring names. -/

open Sys2Proof Sys2Proof.Machine

/-! ## Command words -/

/-- Decoding an encoded command gives it back, and the only word that decodes to a command is its encoding
(30_encoding R80, R82, R83). -/
def Obligations.DecodeInvertsEncode : Prop :=
  (∀ i : Instr, decode (encode i) = .cmd i) ∧ ∀ (w : Word) (i : Instr), decode w = .cmd i → encode i = w

/-- 30_encoding R82: the ten rows; a word decodes to the command whose row selects it; no row selects it exactly when it is
illegal; "At most one row matches any W". -/
def Obligations.OpcodeMapSelectsCommands : Prop :=
  opcodeMap =
    [⟨"NOP", 0x00000000, 0xFFFFFFFF⟩, ⟨"SUMCLR", 0x00000001, 0xFFFFFFFF⟩, ⟨"SUMB", 0x00000002, 0xFFFF00FF⟩,
     ⟨"CRCINIT", 0x00000003, 0xFFFFFFFF⟩, ⟨"CRCB", 0x00000004, 0xFFFF00FF⟩, ⟨"SUMR", 0x00000005, 0xFFFFFFFF⟩,
     ⟨"CRCR", 0x00000006, 0xFFFFFFFF⟩, ⟨"ENCODE", 0x00000007, 0xFFFFFFFF⟩, ⟨"DECODE", 0x00000008, 0xFFFFFFFF⟩,
     ⟨"CLRST", 0x00000009, 0xFFFFFFFF⟩] ∧
  (∀ (w : Word) (i : Instr), decode w = .cmd i → i.row ∈ opcodeMap ∧ w &&& i.row.mask = i.row.pattern) ∧
  (∀ w : Word, (∃ why, decode w = .illegal why) ↔ ∀ r ∈ opcodeMap, w &&& r.mask ≠ r.pattern) ∧
  ∀ (w : Word), ∀ r ∈ opcodeMap, ∀ r' ∈ opcodeMap, w &&& r.mask = r.pattern → w &&& r'.mask = r'.pattern → r = r'

/-- Words written out from 30_encoding R80 and R87, one for every command, and words of each illegal form of R84. -/
def Obligations.CommandWordsDecode : Prop :=
  decode 0x00000000 = .cmd .nop ∧ decode 0x00000001 = .cmd .sumclr ∧ decode 0x00004102 = .cmd (.sumb 0x41) ∧
  decode 0x00000003 = .cmd .crcinit ∧ decode 0x0000FF04 = .cmd (.crcb 0xFF) ∧ decode 0x00000005 = .cmd .sumr ∧
  decode 0x00000006 = .cmd .crcr ∧ decode 0x00000007 = .cmd .encode ∧ decode 0x00000008 = .cmd .decode ∧
  decode 0x00000009 = .cmd .clrst ∧
  decode 0x0000000A = .illegal .opcode ∧ decode 0x00000110 = .illegal .rsv0 ∧ decode 0x00010003 = .illegal .rsv1 ∧
  decode 0x00000101 = .illegal .data8

/-- 30_encoding R84: every word of an illegal form, when performed, completes with ERR = 1 and ILLEGAL_CMD and changes
nothing else; every other word is a command. -/
def Obligations.IllegalWordsOnlyRaise : Prop :=
  (∀ (s : State) (rest : List Event), s.status.busy = true → s.agenda = .engine :: rest → IllegalForm s.latch.word →
    step s = .next { s with agenda := rest, status := s.status.failed .illegalCmd }) ∧
  ∀ w : Word, ¬ IllegalForm w → ∃ i, decode w = .cmd i

/-- 60_exceptions R213: when the ENGINE's turn comes and LATCH's word decodes to a command, the step is that command's
meaning, at the state with the turn taken off the agenda. -/
def Obligations.EngineRunsDecodedCommand : Prop :=
  ∀ (s : State) (i : Instr), s.status.busy = true → decode s.latch.word = .cmd i →
    (s.agenda = [] → step s = exec i s) ∧
    ∀ rest, s.agenda = .engine :: rest → step s = exec i { s with agenda := rest }

/-- A command word placed with withFetchWord is accepted as 60_exceptions R212 says and performed by the very next step. -/
def Obligations.PlacedWordRunsNext : Prop :=
  ∀ (s : State) (i : Instr),
    step (s.withFetchWord 32 (encode i).toNat) =
      exec i { s with
        latch := ⟨encode i, s.blkBase, s.blkLen, s.payLen⟩
        status := s.status.accepted }

/-! ## The control commands -/

/-- 42_control R180: NOP's word, its effect, its life cycle from an idle machine (which clears an earlier error and keeps
OVR), its drop while BUSY = 1, and that any other word with OP = 0 is illegal. -/
def Obligations.NopOnlyCompletes : Prop :=
  encode .nop = 0x00000000 ∧
  (∀ s : State, exec .nop s = .next { s with status := s.status.finished }) ∧
  (∀ (s : State) (rest : List Event), s.status.busy = false → s.rst = false →
    s.agenda = .host (.regWrite 0x00 .word 0x00000000) :: .engine :: rest →
    run 2 s = .next { s with
      agenda := rest
      latch := ⟨0x00000000, s.blkBase, s.blkLen, s.payLen⟩
      status := ⟨false, true, false, s.status.ovr, .none⟩ }) ∧
  (∀ (s : State) (rest : List Event), s.status.busy = true → s.rst = false →
    s.agenda = .host (.regWrite 0x00 .word 0x00000000) :: rest →
    step s = .next { s with agenda := rest, status := { s.status with ovr := true } }) ∧
  ∀ w : Word, w.extractLsb' 0 4 = 0 → w ≠ 0 → ∃ why, decode w = .illegal why

/-- 42_control R181: CLRST's word and effect; it is the only command that clears OVR, reset clears it too, a CLRST written
while BUSY = 1 is itself dropped and sets OVR, and any other word with OP = 9 is illegal. -/
def Obligations.ClrstClearsOverrun : Prop :=
  encode .clrst = 0x00000009 ∧
  (∀ s : State, exec .clrst s = .next { s with status := { s.status.finished with ovr := false } }) ∧
  (∀ (i : Instr) (s t : State), i ≠ .clrst → exec i s = .next t → t.status.ovr = s.status.ovr) ∧
  (∀ (s : State) (rest : List Event), s.agenda = .rstAssert :: rest → ∃ t, step s = .next t ∧ t.status.ovr = false) ∧
  (∀ (s : State) (rest : List Event), s.status.busy = true → s.rst = false →
    s.agenda = .host (.regWrite 0x00 .word 0x00000009) :: rest →
    step s = .next { s with agenda := rest, status := { s.status with ovr := true } }) ∧
  ∀ w : Word, w.extractLsb' 0 4 = 9 → w ≠ 9 → ∃ why, decode w = .illegal why

/-! ## The additive checksum -/

/-- 40_checksum_engine R101. -/
def Obligations.SumclrClearsSum : Prop :=
  encode .sumclr = 0x00000001 ∧ (∀ w : Word, w.extractLsb' 0 4 = 1 → w ≠ 1 → ∃ why, decode w = .illegal why) ∧
  ∀ s : State, exec .sumclr s = .next { s with sumAcc := 0x0000, status := s.status.finished }

/-- 40_checksum_engine R102: the byte is added modulo 2^16, silently; the only error is a reserved field that is not 0. -/
def Obligations.SumbAddsByte : Prop :=
  (∀ d : Byte, (encode (.sumb d)).toNat = d.toNat * 256 + 2) ∧
  (∀ w : Word, w.extractLsb' 0 4 = 2 → ((∃ why, decode w = .illegal why) ↔ w.extractLsb' 4 4 ≠ 0 ∨ w.extractLsb' 16 16 ≠ 0)) ∧
  ∀ (d : Byte) (s : State), exec (.sumb d) s =
    .next { s with sumAcc := BitVec.ofNat 16 ((s.sumAcc.toNat + d.toNat) % 65536), status := s.status.finished }

/-- 40_checksum_engine R104: the sum of the latched range from 0, RANGE beyond BUF_CAP, and the fault on an unwritten byte. -/
def Obligations.SumrSumsRange : Prop :=
  encode .sumr = 0x00000005 ∧ (∀ w : Word, w.extractLsb' 0 4 = 5 → w ≠ 5 → ∃ why, decode w = .illegal why) ∧
  ∀ s : State,
    let b := s.latch.base.toNat
    let n := s.latch.len.toNat
    (s.params.bufCap.toNat < b + n → exec .sumr s = .next { s with status := s.status.failed .range }) ∧
    (∀ bs : List Byte, b + n ≤ s.params.bufCap.toNat → bs.length = n → s.buf.Holds b bs →
      exec .sumr s = .next { s with
        sumAcc := BitVec.ofNat 16 ((bs.map BitVec.toNat).sum % 65536)
        status := s.status.finished }) ∧
    (b + n ≤ s.params.bufCap.toNat → (∃ x, b ≤ x ∧ x < b + n ∧ s.buf.read x = none) →
      exec .sumr s = .fault .unwrittenRead)

/-- 40_checksum_engine R103: SUMCLR and then one SUMB per byte leave AddSum16 of the bytes, which is their sum modulo 65536;
257 bytes of 0xFF sum to 0xFFFF, 258 to 0x00FE, and no fewer than 258 wrap. -/
def Obligations.StreamedSumIsSum : Prop :=
  (∀ (s : State) (bs : List Byte),
    runCommands (.sumclr :: bs.map .sumb) s = .next { s with sumAcc := addSum16 bs, status := s.status.finished }) ∧
  (∀ bs : List Byte, (addSum16 bs).toNat = (bs.map BitVec.toNat).sum % 65536) ∧
  addSum16 (List.replicate 257 0xFF) = 0xFFFF ∧ addSum16 (List.replicate 258 0xFF) = 0x00FE ∧
  ∀ bs : List Byte, bs.length < 258 → (bs.map BitVec.toNat).sum < 65536

/-! ## The CRC -/

/-- 40_checksum_engine R109: CRC_ACC takes 0xFFFFFFFF, so CRC_RESULT reads 0. -/
def Obligations.CrcinitPresetsCrc : Prop :=
  encode .crcinit = 0x00000003 ∧ (∀ w : Word, w.extractLsb' 0 4 = 3 → w ≠ 3 → ∃ why, decode w = .illegal why) ∧
  ∀ s : State, exec .crcinit s = .next { s with crcAcc := 0xFFFFFFFF, status := s.status.finished } ∧
    ∀ t, exec .crcinit s = .next t → t.regValue .crcResult = 0x00000000

/-- 40_checksum_engine R110: CRCB is one CrcStep by the table (R105), on either datapath of a well-formed instance; the only
error is a reserved field that is not 0. -/
def Obligations.CrcbStepsCrc : Prop :=
  (∀ d : Byte, (encode (.crcb d)).toNat = d.toNat * 256 + 4) ∧
  (∀ w : Word, w.extractLsb' 0 4 = 4 → ((∃ why, decode w = .illegal why) ↔ w.extractLsb' 4 4 ≠ 0 ∨ w.extractLsb' 16 16 ≠ 0)) ∧
  ∀ (d : Byte) (s : State), s.params.WellFormed →
    exec (.crcb d) s = .next { s with
      crcAcc := (s.crcAcc <<< 8) ^^^ tableEntry s.params.crcTable ((s.crcAcc >>> 24).setWidth 8 ^^^ d)
      status := s.status.finished }

/-- 40_checksum_engine R112: the CRC of the latched range from 0xFFFFFFFF, by the table on either datapath of a well-formed
instance, RANGE beyond BUF_CAP, and the fault on an unwritten byte. -/
def Obligations.CrcrFoldsRange : Prop :=
  encode .crcr = 0x00000006 ∧ (∀ w : Word, w.extractLsb' 0 4 = 6 → w ≠ 6 → ∃ why, decode w = .illegal why) ∧
  ∀ s : State,
    let b := s.latch.base.toNat
    let n := s.latch.len.toNat
    (s.params.bufCap.toNat < b + n → exec .crcr s = .next { s with status := s.status.failed .range }) ∧
    (∀ bs : List Byte, s.params.WellFormed → b + n ≤ s.params.bufCap.toNat → bs.length = n → s.buf.Holds b bs →
      exec .crcr s = .next { s with crcAcc := crcRawByTable s.params.crcTable bs, status := s.status.finished }) ∧
    (b + n ≤ s.params.bufCap.toNat → (∃ x, b ≤ x ∧ x < b + n ∧ s.buf.read x = none) →
      exec .crcr s = .fault .unwrittenRead)

/-- 40_checksum_engine R111: CRCINIT and then one CRCB per byte leave Crc32Raw of the bytes in CRC_ACC and Crc32 in
CRC_RESULT. -/
def Obligations.StreamedCrcIsCrc : Prop :=
  ∀ (s : State) (bs : List Byte), ∃ t,
    runCommands (.crcinit :: bs.map .crcb) s = .next t ∧
    t = { s with crcAcc := crc32Raw s.params bs, status := s.status.finished } ∧
    t.regValue .crcResult = crc32 s.params bs

/-- 40_checksum_engine R106: for a table generated by P the bit-serial step is the table step; the default table is
generated by 0x04C11DB7; and no command of a well-formed instance does anything the table datapath would not. -/
def Obligations.SerialDatapathMatchesTable : Prop :=
  (∀ (poly : Word) (t : Vector Word 256), (∀ i : Byte, tableEntry t i = tgen poly i) →
    ∀ (acc : Word) (b : Byte), crcStepSerial poly acc b = crcStepTable t acc b) ∧
  (∀ i : Byte, tableEntry defaultCrcTable i = tgen 0x04C11DB7 i) ∧
  ∀ (s : State) (i : Instr), s.params.WellFormed →
    exec i s.withTableDatapath = mapNext State.withTableDatapath (exec i s)

/-- 40_checksum_engine R107: Crc32 of no bytes is 0 whatever the table holds. -/
def Obligations.CrcOfNothingIsZero : Prop := ∀ p : Params, crc32 p [] = 0x00000000

/-- 40_checksum_engine R108: entries of the default table with and without bit 31, and that CrcStep uses all 32 bits of an
entry, with no sign extension. -/
def Obligations.TableEntriesAreUnsigned : Prop :=
  tableEntry defaultCrcTable 0x20 = 0x9823B6E0 ∧ tableEntry defaultCrcTable 0xFF = 0xB1F740B4 ∧
  tableEntry defaultCrcTable 0x80 = 0x690CE0EE ∧
  (∀ (t : Vector Word 256) (i : Byte), crcStepTable t (i.setWidth 32 <<< 24) 0 = tableEntry t i) ∧
  ∀ (t : Vector Word 256) (acc : Word) (b : Byte) (k : Nat), k < 32 →
    (crcStepTable t acc b).getLsbD k =
      ((decide (8 ≤ k) && acc.getLsbD (k - 8)) ^^ (tableEntry t ((acc >>> 24).setWidth 8 ^^^ b)).getLsbD k)

/-! ## ENCODE -/

/-- 41_header_codec R145 with R142, R143 and R146. ENCODE's word, its errors in the order checked, and the fault on an
unwritten byte. When its checks pass and the bytes the CRC covers outside the header are written, ENCODE completes: it writes
the header at block offsets 64 to 75 and then the CRC at p, the later write winning, and no other byte; the CRC is of the
block as it stands after the header is written; SUM_ACC is HdrSum(lw). -/
def Obligations.EncodeWritesBlock : Prop :=
  encode .encode = 0x00000007 ∧ (∀ w : Word, w.extractLsb' 0 4 = 7 → w ≠ 7 → ∃ why, decode w = .illegal why) ∧
  ∀ s : State,
    let b := s.latch.base.toNat
    let n := s.latch.len.toNat
    let lw := (s.latch.paylen.toNat + 3) / 4 + 1
    let p := lw * 4 - 4
    let vw := s.params.validationWord
    let header := headerByte vw lw (hdrSum vw lw)
    let ends (code : ErrCode) := exec .encode s = .next { s with status := s.status.failed code }
    (s.params.bufCap.toNat < b + n → ends .range) ∧
    (b + n ≤ s.params.bufCap.toNat → n < 76 → ends .short) ∧
    (b + n ≤ s.params.bufCap.toNat → 76 ≤ n → 0xFFFF < lw → ends .lenfield) ∧
    (b + n ≤ s.params.bufCap.toNat → 76 ≤ n → lw ≤ 0xFFFF → n < lw * 4 → ends .oversize) ∧
    (b + n ≤ s.params.bufCap.toNat → 76 ≤ n → lw ≤ 0xFFFF → lw * 4 ≤ n →
      ((∃ x, x < p ∧ (x < 64 ∨ 76 ≤ x) ∧ s.buf.read (b + x) = none) → exec .encode s = .fault .unwrittenRead) ∧
      ((∀ x, x < p → (x < 64 ∨ 76 ≤ x) → s.buf.read (b + x) ≠ none) →
        ∃ (t : State) (covered : List Byte),
          exec .encode s = .next t ∧
          covered.length = p ∧
          (∀ x (h : x < covered.length), some covered[x] =
            if 64 ≤ x ∧ x < 76 then some (header x) else s.buf.read (b + x)) ∧
          t = { s with
            buf := t.buf
            sumAcc := hdrSum vw lw
            crcAcc := crc32Raw s.params covered
            encLenw := BitVec.ofNat 16 lw
            status := s.status.finished } ∧
          ∀ a, t.buf.read a =
            if b + p ≤ a ∧ a < b + p + 4 then some ((crc32 s.params covered).extractLsb' (8 * (a - (b + p))) 8)
            else if b + 64 ≤ a ∧ a < b + 76 then some (header (a - b))
            else s.buf.read a))

/-- 60_exceptions R217: of the conditions that hold at once the first in the list is reported, and only STATUS changes; a
DECODE of a block that passes its checks reports no error, whatever its fields. -/
def Obligations.ErrorPriority : Prop :=
  (∀ (s : State) (w : Word) (rest : List Event), s.status.busy = true → s.rst = false →
    s.agenda = .host (.regWrite 0x00 .word w) :: rest →
    step s = .next { s with agenda := rest, status := { s.status with ovr := true } }) ∧
  (∀ (s : State) (why : IllegalReason) (rest : List Event), s.status.busy = true → s.agenda = .engine :: rest →
    decode s.latch.word = .illegal why →
    step s = .next { s with agenda := rest, status := s.status.failed .illegalCmd }) ∧
  ∀ s : State,
    let n := s.latch.len.toNat
    let lw := (s.latch.paylen.toNat + 3) / 4 + 1
    let inRange := s.latch.base.toNat + n ≤ s.params.bufCap.toNat
    let minLen := match s.params.decodeMinLen with | .len76 => 76 | .len78 => 78
    (¬ inRange → ∀ i ∈ [Instr.sumr, .crcr, .encode, .decode], exec i s = .next { s with status := s.status.failed .range }) ∧
    (inRange → n < 76 → exec .encode s = .next { s with status := s.status.failed .short }) ∧
    (inRange → n < minLen → exec .decode s = .next { s with status := s.status.failed .short }) ∧
    (inRange → 76 ≤ n → 0xFFFF < lw → exec .encode s = .next { s with status := s.status.failed .lenfield }) ∧
    (inRange → 76 ≤ n → lw ≤ 0xFFFF → n < lw * 4 → exec .encode s = .next { s with status := s.status.failed .oversize }) ∧
    (inRange → minLen ≤ n → ∀ t, exec .decode s = .next t → t.status = s.status.finished)

/-! ## DECODE -/

/-- 41_header_codec R150, R153: DECODE's word; it reports every field of the block with its flags, from the twelve header
bytes b0 to b11; it evaluates the CRC exactly when `ln != 0 and ln * 4 <= N`. Its errors are RANGE, then SHORT; it faults on
an unwritten byte of the header, of the CRC field or of the range the CRC covers. -/
def Obligations.DecodeReportsBlock : Prop :=
  encode .decode = 0x00000008 ∧ (∀ w : Word, w.extractLsb' 0 4 = 8 → w ≠ 8 → ∃ why, decode w = .illegal why) ∧
  ∀ (s : State) (b0 b1 b2 b3 b4 b5 b6 b7 b8 b9 b10 b11 : Byte),
    let b := s.latch.base.toNat
    let n := s.latch.len.toNat
    let minLen := match s.params.decodeMinLen with | .len76 => 76 | .len78 => 78
    let vw : Word := b3 ++ b2 ++ b1 ++ b0
    let ln : Half := b7 ++ b6
    let sc : Half := b11 ++ b10
    let sum : Half := BitVec.ofNat 16
      (b0.toNat + b1.toNat + b2.toNat + b3.toNat + b4.toNat + b5.toNat + b6.toNat + b7.toNat + b8.toNat + b9.toNat)
    let report (st : Word) (crcst : CrcSt) : DecReport :=
      { vw := vw, version := b4, flags := b5, length := ln, spare := b9 ++ b8, simpleChecksum := sc, crc := st
        vwOk := decide (vw = s.params.validationWord)
        verOk := decide (b4 = 0)
        lenOk := match s.params.lenCheck with
          | .corrected => decide (21 ≤ ln.toNat ∧ ln.toNat ≤ 16384)
          | .reference => true
        sumOk := decide (sc = sum)
        crcSt := crcst }
    (s.params.bufCap.toNat < b + n → exec .decode s = .next { s with status := s.status.failed .range }) ∧
    (b + n ≤ s.params.bufCap.toNat → n < minLen → exec .decode s = .next { s with status := s.status.failed .short }) ∧
    (b + n ≤ s.params.bufCap.toNat → minLen ≤ n → (∃ x, 64 ≤ x ∧ x < 76 ∧ s.buf.read (b + x) = none) →
      exec .decode s = .fault .unwrittenRead) ∧
    (b + n ≤ s.params.bufCap.toNat → minLen ≤ n →
      s.buf.Holds (b + 64) [b0, b1, b2, b3, b4, b5, b6, b7, b8, b9, b10, b11] →
      (ln = 0 ∨ n < ln.toNat * 4 →
        exec .decode s = .next { s with
          dec := report 0 .notEvaluated
          sumAcc := sum
          crcAcc := 0xFFFFFFFF
          status := s.status.finished }) ∧
      (ln ≠ 0 → ln.toNat * 4 ≤ n → (∃ x, x < ln.toNat * 4 ∧ s.buf.read (b + x) = none) →
        exec .decode s = .fault .unwrittenRead) ∧
      ∀ (covered : List Byte) (c0 c1 c2 c3 : Byte), ln ≠ 0 → ln.toNat * 4 ≤ n →
        covered.length = ln.toNat * 4 - 4 → s.buf.Holds b covered →
        s.buf.Holds (b + (ln.toNat * 4 - 4)) [c0, c1, c2, c3] →
        let st : Word := c3 ++ c2 ++ c1 ++ c0
        exec .decode s = .next { s with
          dec := report st (if st = crc32Raw s.params covered ^^^ 0xFFFFFFFF then .valid else .invalid)
          sumAcc := sum
          crcAcc := crc32Raw s.params covered
          status := s.status.finished })

/-- 41_header_codec R154: DECODE never writes BUF, so a second DECODE with no write between gives the identical report (it
leaves the whole state as it is). -/
def Obligations.DecodeIsIdempotent : Prop :=
  ∀ s t : State, exec .decode s = .next t → t.buf = s.buf ∧ exec .decode t = .next t

/-- 41_header_codec R152: LEN_OK by the LEN_CHECK rule; changing the rule changes LEN_OK alone. -/
def Obligations.LengthRuleOnlySetsLenOk : Prop :=
  ∀ s t : State,
    decodeError s.params s.latch = none → exec .decode s = .next t →
    (s.params.lenCheck = .corrected →
      (t.dec.lenOk = true ↔ 21 ≤ t.dec.length.toNat ∧ t.dec.length.toNat ≤ 16384)) ∧
    (s.params.lenCheck = .reference → t.dec.lenOk = true) ∧
    ∀ c : LenCheck, ∃ ok : Bool,
      exec .decode { s with params := { s.params with lenCheck := c } } =
        .next { t with params := { t.params with lenCheck := c }, dec := { t.dec with lenOk := ok } }

/-- 41_header_codec R149 and R144: DECODE after ENCODE on the same block, for lengths whose CRC field does not overwrite the
header (lw 1 to 16 or 20 and above); with DECODE_MIN_LEN = 78 and N = 76 or 77 it raises SHORT. -/
def Obligations.EncodeDecodeRoundTrip : Prop :=
  ∀ s t : State,
    let n := s.latch.len.toNat
    let lw := (s.latch.paylen.toNat + 3) / 4 + 1
    let minLen := match s.params.decodeMinLen with | .len76 => 76 | .len78 => 78
    s.latch.base.toNat + n ≤ s.params.bufCap.toNat → 76 ≤ n → lw ≤ 0xFFFF → lw * 4 ≤ n →
    exec .encode s = .next t →
    (n < minLen → exec .decode t = .next { t with status := t.status.failed .short }) ∧
    (minLen ≤ n → lw ≤ 16 ∨ 20 ≤ lw → ∃ u, exec .decode t = .next u ∧
      u.dec.vw = s.params.validationWord ∧ u.dec.vwOk = true ∧ u.dec.verOk = true ∧ u.dec.sumOk = true ∧
      u.dec.crcSt = .valid ∧ u.dec.length.toNat = lw ∧ u.dec.flags = 0 ∧ u.dec.spare = 0 ∧
      (s.params.lenCheck = .corrected → (u.dec.lenOk = true ↔ 21 ≤ lw ∧ lw ≤ 16384)) ∧
      u.sumAcc = t.sumAcc ∧ u.crcAcc = t.crcAcc ∧ u.buf = t.buf)

/-- 41_header_codec R155: after one byte of block offsets 64 to 73 changes, a block whose sum was right reports SUM_OK = 0;
a changed byte of a right validation word clears VW_OK, a changed version byte that was 0 clears VER_OK, and a changed flags
or spare byte leaves VW_OK, VER_OK and LEN_OK as they were. -/
def Obligations.ChangedHeaderByteIsDetected : Prop :=
  ∀ (s t u : State) (x : Nat) (v v' : Byte),
    decodeError s.params s.latch = none → exec .decode s = .next t → t.dec.sumOk = true →
    64 ≤ x → x ≤ 73 → s.buf.read (s.latch.base.toNat + x) = some v → v' ≠ v →
    exec .decode { s with buf := s.buf.write (s.latch.base.toNat + x) v' } = .next u →
    u.dec.sumOk = false ∧
    (x ≤ 67 → t.dec.vwOk = true → u.dec.vwOk = false) ∧
    (x = 68 → v = 0 → u.dec.verOk = false) ∧
    (x = 69 ∨ x = 72 ∨ x = 73 →
      u.dec.vwOk = t.dec.vwOk ∧ u.dec.verOk = t.dec.verOk ∧ u.dec.lenOk = t.dec.lenOk)

/-! ## Every command -/

/-- The frame of every command that completes (10_state R27 to R34, 20_memory R60, 60_exceptions R213): BUSY 0, DONE 1, OVR
kept but by CLRST; of the other state only SUM_ACC, CRC_ACC, the DEC_* registers, ENC_LENW and BUF may change, each only by
the commands its rule names. -/
def Obligations.CommandFrame : Prop :=
  ∀ (i : Instr) (s t : State), exec i s = .next t →
    t.status.busy = false ∧ t.status.done = true ∧
    t = { s with
      status := t.status, sumAcc := t.sumAcc, crcAcc := t.crcAcc, dec := t.dec, encLenw := t.encLenw, buf := t.buf } ∧
    (t.sumAcc ≠ s.sumAcc → i = .sumclr ∨ (∃ d, i = .sumb d) ∨ i = .sumr ∨ i = .encode ∨ i = .decode) ∧
    (t.crcAcc ≠ s.crcAcc → i = .crcinit ∨ (∃ d, i = .crcb d) ∨ i = .crcr ∨ i = .encode ∨ i = .decode) ∧
    (t.dec ≠ s.dec → i = .decode) ∧ (t.encLenw ≠ s.encLenw → i = .encode) ∧ (t.buf ≠ s.buf → i = .encode) ∧
    (t.status.ovr ≠ s.status.ovr → i = .clrst)

/-- 60_exceptions R214: a command that ends in an error changes nothing but STATUS. -/
def Obligations.ErrorsChangeOnlyStatus : Prop :=
  ∀ (i : Instr) (s t : State), s.status.err = false → exec i s = .next t → t.status.err = true →
    t.status.errcode ≠ .none ∧ t = { s with status := s.status.failed t.status.errcode }

/-- 60_exceptions R215: the codes, and which command may end with which, for which cause. -/
def Obligations.ErrorCodesPerCommand : Prop :=
  (ErrCode.code .none = 0 ∧ ErrCode.code .illegalCmd = 1 ∧ ErrCode.code .range = 2 ∧ ErrCode.code .short = 3 ∧
    ErrCode.code .lenfield = 4 ∧ ErrCode.code .oversize = 5) ∧
  (∀ s : State, s.status.busy = true → s.agenda = [] → ∀ why, decode s.latch.word = .illegal why →
    ∃ t, step s = .next t ∧ t.status.errcode = .illegalCmd) ∧
  ∀ (i : Instr) (s t : State), s.status.errcode = .none → exec i s = .next t →
    let n := s.latch.len.toNat
    let lw := (s.latch.paylen.toNat + 3) / 4 + 1
    let minLen := match s.params.decodeMinLen with | .len76 => 76 | .len78 => 78
    match t.status.errcode with
    | .none => True
    | .illegalCmd => False
    | .range => i ∈ [Instr.sumr, .crcr, .encode, .decode] ∧ s.params.bufCap.toNat < s.latch.base.toNat + n
    | .short => (i = .encode ∧ n < 76) ∨ (i = .decode ∧ n < minLen)
    | .lenfield => i = .encode ∧ 0xFFFF < lw
    | .oversize => i = .encode ∧ n < lw * 4

/-- 20_memory R57, R58: a command reads and writes no byte outside its latched block. Two buffers that agree on the block
give the same fault, or next states that differ at most outside the block, where each keeps its own bytes. -/
def Obligations.CommandsStayInBlock : Prop :=
  ∀ (i : Instr) (s : State) (m : Memory),
    let inBlock (x : Nat) := s.latch.base.toNat ≤ x ∧ x < s.latch.base.toNat + s.latch.len.toNat
    (∀ x, inBlock x → s.buf.read x = m.read x) →
    match exec i s, exec i { s with buf := m } with
    | .next t, .next t' =>
      t' = { t with buf := t'.buf } ∧ (∀ x, inBlock x → t'.buf.read x = t.buf.read x) ∧
      ∀ x, ¬ inBlock x → t.buf.read x = s.buf.read x ∧ t'.buf.read x = m.read x
    | .fault f, .fault f' => f = f'
    | _, _ => False

/-- 70_reset_and_hazards R248: a read of an unwritten byte, by the ENGINE in any command that reads BUF or by HOST, faults. -/
def Obligations.UnwrittenByteFaults : Prop :=
  ∀ s : State,
    let b := s.latch.base.toNat
    let n := s.latch.len.toNat
    (rangeError s.params s.latch = none → (∃ x, x < n ∧ s.buf.read (b + x) = none) →
      exec .sumr s = .fault .unwrittenRead ∧ exec .crcr s = .fault .unwrittenRead) ∧
    (encodeError s.params s.latch = none →
      (∃ x, x < s.latch.p ∧ (x < 64 ∨ 76 ≤ x) ∧ s.buf.read (b + x) = none) → exec .encode s = .fault .unwrittenRead) ∧
    (decodeError s.params s.latch = none → (∃ x, 64 ≤ x ∧ x < 76 ∧ s.buf.read (b + x) = none) →
      exec .decode s = .fault .unwrittenRead) ∧
    (∀ ln0 ln1 : Byte, decodeError s.params s.latch = none → s.buf.Holds (b + 70) [ln0, ln1] →
      (ln1 ++ ln0 : Half) ≠ 0 → (ln1 ++ ln0 : Half).toNat * 4 ≤ n →
      (∃ x, x < (ln1 ++ ln0 : Half).toNat * 4 ∧ s.buf.read (b + x) = none) → exec .decode s = .fault .unwrittenRead) ∧
    ∀ (a : Nat) (w : Width) (rest : List Event), s.status.busy = false → s.agenda = .host (.bufRead a w) :: rest →
      LegalBufferAccess s.params.bufCap.toNat a w → (∃ x, a ≤ x ∧ x < a + w.bytes ∧ s.buf.read x = none) →
      step s = .fault .unwrittenRead

/-! ## The life cycle and HOST's ports -/

/-- 60_exceptions R212: a CMD write to an idle machine fills LATCH, clears DONE, ERR and ERRCODE and sets BUSY without
decoding the word; a CMD write while BUSY = 1 sets OVR and nothing else. -/
def Obligations.CmdWriteAcceptsOrDrops : Prop :=
  ∀ (s : State) (w : Word) (rest : List Event), s.rst = false → s.agenda = .host (.regWrite 0x00 .word w) :: rest →
    (s.status.busy = true → step s = .next { s with agenda := rest, status := { s.status with ovr := true } }) ∧
    (s.status.busy = false → step s = .next { s with
      agenda := rest
      latch := { word := w, base := s.blkBase, len := s.blkLen, paylen := s.payLen }
      status := { busy := true, done := false, err := false, ovr := s.status.ovr, errcode := .none } })

/-- 70_reset_and_hazards R250: a write of BLK_BASE, BLK_LEN or PAY_LEN while a command is in flight does not affect it; the
write and the ENGINE's turn give the same end in either order. -/
def Obligations.OperandWritesDoNotReachCommand : Prop :=
  ∀ (s : State) (r : Reg) (v : Word) (rest : List Event), s.status.busy = true → s.rst = false →
    r ∈ [Reg.blkBase, .blkLen, .payLen] →
    run 2 { s with agenda := .host (.regWrite r.offset .word v) :: .engine :: rest } =
      run 2 { s with agenda := .engine :: .host (.regWrite r.offset .word v) :: rest }

/-- 10_state R22, R24 to R27, R32 to R36: what each register reads as while no command is in flight, at its offset of R21. -/
def Obligations.IdleRegistersReadTheirValue : Prop :=
  ∀ (s : State) (rest : List Event), s.status.busy = false →
    let reads (off : BitVec 6) (v : Word) := s.agenda = .host (.regRead off .word) :: rest →
      step s = .next { s with agenda := rest, readData := v :: s.readData }
    reads 0x00 0 ∧ reads 0x04 s.status.word ∧ reads 0x08 s.blkBase ∧ reads 0x0C s.blkLen ∧ reads 0x10 s.payLen ∧
    reads 0x14 (s.sumAcc.setWidth 32) ∧ reads 0x18 s.crcAcc ∧ reads 0x1C (s.crcAcc ^^^ 0xFFFFFFFF) ∧
    reads 0x20 s.dec.vw ∧ reads 0x24 s.dec.hdrWord ∧ reads 0x28 s.dec.chkWord ∧ reads 0x2C s.dec.crc ∧
    reads 0x30 s.dec.validWord ∧ reads 0x34 (s.encLenw.setWidth 32) ∧ reads 0x38 s.params.bufCap ∧ reads 0x3C 0

/-- 10_state R23, R28 to R30: where the fields of STATUS, DEC_HDR, DEC_CHK and DEC_VALID stand. -/
def Obligations.StatusAndReportLayout : Prop :=
  (∀ t : Status, t.word.getLsbD 0 = t.busy ∧ t.word.getLsbD 1 = t.done ∧ t.word.getLsbD 2 = t.err ∧
    t.word.getLsbD 3 = t.ovr ∧ t.word.extractLsb' 4 4 = t.errcode.code ∧ t.word.extractLsb' 8 24 = 0) ∧
  (∀ d : DecReport, d.hdrWord.extractLsb' 0 8 = d.version ∧ d.hdrWord.extractLsb' 8 8 = d.flags ∧
    d.hdrWord.extractLsb' 16 16 = d.length ∧ d.chkWord.extractLsb' 0 16 = d.spare ∧
    d.chkWord.extractLsb' 16 16 = d.simpleChecksum) ∧
  (∀ d : DecReport, d.validWord.getLsbD 0 = d.vwOk ∧ d.validWord.getLsbD 1 = d.verOk ∧
    d.validWord.getLsbD 2 = d.lenOk ∧ d.validWord.getLsbD 3 = d.sumOk ∧ d.validWord.extractLsb' 4 2 = d.crcSt.code ∧
    d.validWord.extractLsb' 4 2 ≠ 3 ∧ d.validWord.extractLsb' 6 26 = 0) ∧
  CrcSt.code .notEvaluated = 0 ∧ CrcSt.code .valid = 1 ∧ CrcSt.code .invalid = 2

/-- 20_memory R64: while BUSY = 1, what reads exactly, what reads a draw with its always-zero bits 0, that operand writes
take effect beside LATCH, and that any HOST access to the buffer faults. The drawn value is any value: nothing is said of
it but those bits. -/
def Obligations.AccessesWhileBusy : Prop :=
  ∀ (s : State) (rest : List Event), s.status.busy = true →
    (s.agenda = .host (.regRead 0x04 .word) :: rest →
      step s = .next { s with agenda := rest, readData := s.status.word :: s.readData }) ∧
    (s.agenda = .host (.regRead 0x08 .word) :: rest →
      step s = .next { s with agenda := rest, readData := s.blkBase :: s.readData }) ∧
    (s.agenda = .host (.regRead 0x0C .word) :: rest →
      step s = .next { s with agenda := rest, readData := s.blkLen :: s.readData }) ∧
    (s.agenda = .host (.regRead 0x10 .word) :: rest →
      step s = .next { s with agenda := rest, readData := s.payLen :: s.readData }) ∧
    (s.agenda = .host (.regRead 0x38 .word) :: rest →
      step s = .next { s with agenda := rest, readData := s.params.bufCap :: s.readData }) ∧
    (∀ off ∈ [(0x14 : BitVec 6), 0x18, 0x1C, 0x20, 0x24, 0x28, 0x2C, 0x30, 0x34],
      s.agenda = .host (.regRead off .word) :: rest →
      ∃ v : Word, step s = .next { s with agenda := rest, readData := v :: s.readData, draws := s.draws + 1 } ∧
        (off = 0x14 ∨ off = 0x34 → v.extractLsb' 16 16 = 0) ∧ (off = 0x30 → v.extractLsb' 6 26 = 0)) ∧
    (s.rst = false → ∀ v : Word,
      (s.agenda = .host (.regWrite 0x08 .word v) :: rest → step s = .next { s with agenda := rest, blkBase := v }) ∧
      (s.agenda = .host (.regWrite 0x0C .word v) :: rest → step s = .next { s with agenda := rest, blkLen := v }) ∧
      (s.agenda = .host (.regWrite 0x10 .word v) :: rest → step s = .next { s with agenda := rest, payLen := v })) ∧
    ∀ (a : Nat) (w : Width),
      (s.agenda = .host (.bufRead a w) :: rest → step s = .fault .bufferWhileBusy) ∧
      ∀ v : Word, s.agenda = .host (.bufWrite a w v) :: rest → step s = .fault .bufferWhileBusy

/-- 20_memory R55: register accesses of another width or at an offset that is no multiple of 4 are refused; aligned writes
to read-only registers and 0x3C are ignored; CMD and 0x3C read 0; no register read has a side effect on the block; a write
of an operand register stores the value and does nothing else. -/
def Obligations.RegisterPortRules : Prop :=
  ∀ (s : State) (off : BitVec 6) (w : Width) (v : Word) (rest : List Event),
    (w ≠ .word ∨ off.toNat % 4 ≠ 0 →
      (s.agenda = .host (.regRead off w) :: rest → step s = .refused .registerAccess) ∧
      (s.agenda = .host (.regWrite off w v) :: rest → step s = .refused .registerAccess)) ∧
    (off ∈ [(0x04 : BitVec 6), 0x14, 0x18, 0x1C, 0x20, 0x24, 0x28, 0x2C, 0x30, 0x34, 0x38, 0x3C] →
      s.agenda = .host (.regWrite off .word v) :: rest → step s = .next { s with agenda := rest }) ∧
    (off = 0x00 ∨ off = 0x3C → s.agenda = .host (.regRead off .word) :: rest →
      step s = .next { s with agenda := rest, readData := 0 :: s.readData }) ∧
    (off.toNat % 4 = 0 → s.agenda = .host (.regRead off .word) :: rest →
      ∃ (r : Word) (d : Nat), step s = .next { s with agenda := rest, readData := r :: s.readData, draws := d }) ∧
    (s.rst = false →
      (s.agenda = .host (.regWrite 0x08 .word v) :: rest → step s = .next { s with agenda := rest, blkBase := v }) ∧
      (s.agenda = .host (.regWrite 0x0C .word v) :: rest → step s = .next { s with agenda := rest, blkLen := v }) ∧
      (s.agenda = .host (.regWrite 0x10 .word v) :: rest → step s = .next { s with agenda := rest, payLen := v }))

/-- 20_memory R56: which HOST buffer accesses complete on an idle machine, that every other one is refused, and that a read
of an unwritten byte faults. -/
def Obligations.BufferPortRules : Prop :=
  ∀ (s : State) (a : Nat) (w : Width) (v : Word) (rest : List Event), s.status.busy = false →
    (¬ LegalBufferAccess s.params.bufCap.toNat a w →
      (s.agenda = .host (.bufRead a w) :: rest → step s = .refused .bufferAccess) ∧
      (s.agenda = .host (.bufWrite a w v) :: rest → step s = .refused .bufferAccess)) ∧
    (LegalBufferAccess s.params.bufCap.toNat a w →
      (s.agenda = .host (.bufWrite a w v) :: rest → ∃ t, step s = .next t ∧ t = { s with agenda := rest, buf := t.buf }) ∧
      (s.agenda = .host (.bufRead a w) :: rest →
        ((∀ x, a ≤ x → x < a + w.bytes → s.buf.read x ≠ none) →
          ∃ r : Word, step s = .next { s with agenda := rest, readData := r :: s.readData }) ∧
        ((∃ x, a ≤ x ∧ x < a + w.bytes ∧ s.buf.read x = none) → step s = .fault .unwrittenRead)))

/-- 20_memory R54: HOST's 16 and 32-bit buffer accesses are little-endian; a write changes the bytes of its width and no
other; a 32-bit write of VALIDATION_WORD at a block's offset 64 gives the bytes ENCODE writes there. That an 8 or 16-bit
read returns zeros above its value, and that a narrow write uses the low bits, is the model's reading (log entry 15). -/
def Obligations.BufferPortIsLittleEndian : Prop :=
  ∀ (s : State) (a : Nat) (w : Width) (rest : List Event), s.status.busy = false →
    LegalBufferAccess s.params.bufCap.toNat a w →
    (∀ v : Word, s.agenda = .host (.bufWrite a w v) :: rest →
      ∃ t, step s = .next t ∧ ∀ x, t.buf.read x =
        if a ≤ x ∧ x < a + w.bytes then some (v.extractLsb' (8 * (x - a)) 8) else s.buf.read x) ∧
    (∀ b0 b1 b2 b3 : Byte, s.agenda = .host (.bufRead a w) :: rest →
      (w = .byte → s.buf.Holds a [b0] →
        step s = .next { s with agenda := rest, readData := b0.setWidth 32 :: s.readData }) ∧
      (w = .half → s.buf.Holds a [b0, b1] →
        step s = .next { s with agenda := rest, readData := (b1 ++ b0 : Half).setWidth 32 :: s.readData }) ∧
      (w = .word → s.buf.Holds a [b0, b1, b2, b3] →
        step s = .next { s with agenda := rest, readData := (b3 ++ b2 ++ b1 ++ b0 : Word) :: s.readData })) ∧
    ∀ b x : Nat, w = .word → a = b + 64 → 64 ≤ x → x < 68 →
      s.agenda = .host (.bufWrite a w s.params.validationWord) :: rest →
      ∃ t, step s = .next t ∧ ∀ (lw : Nat) (sum : Half), t.buf.read (b + x) = some (headerByte s.params.validationWord lw sum x)

/-- 20_memory R51: a bus address in the register window is the register at its offset, one in the buffer window the byte at
its offset, where the platform's windows do not overlap there. -/
def Obligations.BusWindows : Prop :=
  ∀ (s : State) (addr : Nat) (w : Width) (v : Word) (rest : List Event),
    let inReg := s.params.regBase ≤ addr ∧ addr < s.params.regBase + 64
    let inBuf := s.params.bufBase ≤ addr ∧ addr < s.params.bufBase + s.params.bufCap.toNat
    (inReg → ¬ inBuf →
      step { s with agenda := .bus (.read addr w) :: rest } =
        step { s with agenda := .host (.regRead (BitVec.ofNat 6 (addr - s.params.regBase)) w) :: rest } ∧
      step { s with agenda := .bus (.write addr w v) :: rest } =
        step { s with agenda := .host (.regWrite (BitVec.ofNat 6 (addr - s.params.regBase)) w v) :: rest }) ∧
    (inBuf → ¬ inReg →
      step { s with agenda := .bus (.read addr w) :: rest } =
        step { s with agenda := .host (.bufRead (addr - s.params.bufBase) w) :: rest } ∧
      step { s with agenda := .bus (.write addr w v) :: rest } =
        step { s with agenda := .host (.bufWrite (addr - s.params.bufBase) w v) :: rest })

/-- 60_exceptions R225: a run with a second HOST agent is refused. -/
def Obligations.SecondHostIsRefused : Prop :=
  ∀ (s : State) (a : HostAccess) (rest : List Event), s.agenda = .secondHost a :: rest → step s = .refused .secondHost

/-- 60_exceptions R213, R227: with no command in flight the ENGINE has no step; its turn passes and an idle machine with
nothing on the agenda stays as it is (the form is the model's own, log entry 5). -/
def Obligations.IdleEngineHasNoStep : Prop :=
  ∀ s : State, s.status.busy = false →
    (s.agenda = [] → step s = .next s) ∧ ∀ rest, s.agenda = .engine :: rest → step s = .next { s with agenda := rest }

/-- 30_encoding R89 and 70_reset_and_hazards R252, in the model's own schedule (log entry 6): a WAIT on a command that does
not fault reads STATUS with BUSY = 1, lets the ENGINE complete, reads STATUS with BUSY = 0 and ends. -/
def Obligations.WaitEndsAfterCompletion : Prop :=
  ∀ (s : State) (rest : List Event), s.status.busy = true → s.agenda = .wait :: rest → (∃ u, engineStep s = .next u) →
    ∃ t, run 3 s = .next t ∧ t.status.busy = false ∧ t.status.done = true ∧ t.agenda = rest ∧
      t.readData = t.status.word :: s.status.word :: s.readData

/-! ## Reset -/

/-- 70_reset_and_hazards R240: asserting rst gives every register its reset value and abandons a command in flight, and a
CMD write while rst is asserted is ignored. -/
def Obligations.ResetRestoresRegisters : Prop :=
  (∀ (s : State) (rest : List Event), s.agenda = .rstAssert :: rest →
    ∃ t, step s = .next t ∧ t.RegistersReset ∧ t.status.busy = false ∧ t.status.done = false ∧ t.status.err = false ∧
      t.regValue .crcResult = 0 ∧ t.dec.crcSt = .notEvaluated ∧ t.rst = true ∧ t.params = s.params ∧ t.agenda = rest ∧
      t.readData = s.readData) ∧
  (∀ (s : State) (w : Word) (rest : List Event), s.rst = true → s.agenda = .host (.regWrite 0x00 .word w) :: rest →
    step s = .next { s with agenda := rest }) ∧
  State.reset.RegistersReset

/-- 70_reset_and_hazards R241: a reset keeps every byte of BUF, but the write set of an ENCODE that was in flight (and would
write) becomes unwritten; at power-on every byte is unwritten. -/
def Obligations.ResetKeepsBuffer : Prop :=
  (∀ a, State.reset.buf.read a = none) ∧
  ∀ (s : State) (rest : List Event), s.agenda = .rstAssert :: rest →
    ∃ t, step s = .next t ∧
      (¬ (s.status.busy = true ∧ decode s.latch.word = .cmd .encode) → t.buf = s.buf) ∧
      (s.status.busy = true → decode s.latch.word = .cmd .encode →
        let b := s.latch.base.toNat
        let lw := (s.latch.paylen.toNat + 3) / 4 + 1
        let p := lw * 4 - 4
        let n := s.latch.len.toNat
        (b + n ≤ s.params.bufCap.toNat ∧ 76 ≤ n ∧ lw ≤ 0xFFFF ∧ lw * 4 ≤ n →
          ∀ a, t.buf.read a =
            if (b + 64 ≤ a ∧ a < b + 76) ∨ (b + p ≤ a ∧ a < b + p + 4) then none else s.buf.read a) ∧
        (¬ (b + n ≤ s.params.bufCap.toNat ∧ 76 ≤ n ∧ lw ≤ 0xFFFF ∧ lw * 4 ≤ n) → t.buf = s.buf))

/-- 10_state R40, as HOST reads it right after power-on. LATCH's value is not part of it. -/
def Obligations.PowerOnRegisters : Prop :=
  (∀ r ∈ [Reg.cmd, .status, .blkBase, .blkLen, .payLen, .sum, .crcResult, .decVw, .decHdr, .decChk, .decCrc, .decValid,
    .encLenw, .reserved], State.reset.regValue r = 0x00000000) ∧
  State.reset.regValue .crcAcc = 0xFFFFFFFF ∧ State.reset.regValue .bufCap = State.reset.params.bufCap ∧
  State.reset.buf = [] ∧ State.reset.rst = false

/-! ## The whole machine -/

/-- The invariant holds right after reset. -/
def Obligations.ResetMeetsInvariant : Prop := State.reset.Inv

/-- Every step keeps the invariant: parameters an instance may have, BUF in its canonical form and inside BUF_CAP, STATUS
legal ("BUSY and DONE are never both 1"), a report that agrees with itself, and reset values while rst is asserted. -/
def Obligations.StepKeepsInvariant : Prop := ∀ s t : State, s.Inv → step s = .next t → t.Inv

/-- 10_state R35, R41: no step changes a parameter of the instance, BUF_CAP and the CRC table among them. -/
def Obligations.ParametersNeverChange : Prop := ∀ s t : State, step s = .next t → t.params = s.params

/-- 10_state R23, 60_exceptions R220: OVR is set only by a CMD write while BUSY = 1, and cleared only by a performed CLRST
and by reset. -/
def Obligations.OverrunIsSticky : Prop :=
  ∀ s t : State, step s = .next t →
    (s.status.ovr = true → t.status.ovr = false →
      (s.status.busy = true ∧ decode s.latch.word = .cmd .clrst ∧ s.EngineNext) ∨ ∃ rest, s.agenda = .rstAssert :: rest) ∧
    (s.status.ovr = false → t.status.ovr = true → s.status.busy = true ∧ ∃ w, s.CmdWriteNext w)

/-- 10_state R23: BUSY is set only by an accepted CMD write, which latches the word written and the operand registers, and
cleared only by the ENGINE's step, with DONE, and by reset. -/
def Obligations.BusyFollowsLifeCycle : Prop :=
  ∀ s t : State, step s = .next t →
    (s.status.busy = false → t.status.busy = true →
      ∃ w, s.CmdWriteNext w ∧ t.latch = ⟨w, s.blkBase, s.blkLen, s.payLen⟩) ∧
    (s.status.busy = true → t.status.busy = false →
      (s.EngineNext ∧ t.status.done = true) ∨ ∃ rest, s.agenda = .rstAssert :: rest)

/-- In the canonical form the bytes read determine the memory: two buffers that read alike are equal data (the form is the
model's own, log entry 11). -/
def Obligations.CanonicalBufferIsItsReads : Prop :=
  ∀ m m' : Memory, m.wf → m'.wf → (∀ a, m.read a = m'.read a) → m = m'
end

