-- ==== Sys2Proof/Laws/Memory.lean ====
section
/-! SUPPORT. The laws of the buffer memory: a read after a write, the canonical form, ranges of bytes, and the little-endian
numbers built from them. -/

namespace Sys2Proof.Machine

/-! ## One byte -/

@[simp] theorem Memory.read_nil (a : Nat) : Memory.read [] a = none := rfl

theorem Memory.read_write (m : Memory) (a x : Nat) (b : Byte) :
    (m.write a b).read x = if x = a then some b else m.read x := by
  induction m with
  | nil => simp [Memory.write, Memory.read, eq_comm]
  | cons c cs ih =>
    simp only [Memory.write]
    by_cases h1 : a < c.1
    · simp only [h1, if_true, Memory.read, eq_comm (a := a)]
    · by_cases h2 : a = c.1
      · subst h2
        simp only [Nat.lt_irrefl, if_false, if_true, Memory.read, eq_comm (a := c.1)]
        split_ifs <;> rfl
      · simp only [h1, h2, if_false, Memory.read, ih]
        by_cases hx : x = a
        · simp [hx]
          exact fun h => absurd h.symm h2
        · simp [hx]

@[simp] theorem Memory.read_write_same (m : Memory) (a : Nat) (b : Byte) : (m.write a b).read a = some b := by
  simp [Memory.read_write]

theorem Memory.read_write_other (m : Memory) {a x : Nat} (b : Byte) (h : x ≠ a) : (m.write a b).read x = m.read x := by
  simp [Memory.read_write, h]

theorem Memory.mem_write {m : Memory} {a : Nat} {b : Byte} {c : Host.Cell} (h : c ∈ m.write a b) :
    c = (a, b) ∨ c ∈ m := by
  induction m with
  | nil => simpa [Memory.write] using h
  | cons d ds ih =>
    simp only [Memory.write] at h
    split_ifs at h with h1 h2
    · simpa using h
    · rcases List.mem_cons.1 h with h | h
      · exact .inl h
      · exact .inr (List.mem_cons_of_mem _ h)
    · rcases List.mem_cons.1 h with h | h
      · exact .inr (h ▸ List.mem_cons_self)
      · exact (ih h).imp_right (List.mem_cons_of_mem _)

theorem Memory.write_keeps_wf {m : Memory} (a : Nat) (b : Byte) (h : m.wf) : (m.write a b).wf := by
  induction m with
  | nil => simp [Memory.write]
  | cons c cs ih =>
    obtain ⟨hc, hcs⟩ := List.pairwise_cons.1 h
    simp only [Memory.write]
    split_ifs with h1 h2
    · refine List.pairwise_cons.2 ⟨fun d hd => ?_, h⟩
      rcases List.mem_cons.1 hd with rfl | hd
      · exact h1
      · exact h1.trans (hc d hd)
    · exact List.pairwise_cons.2 ⟨fun d hd => by simpa [h2] using hc d hd, hcs⟩
    · refine List.pairwise_cons.2 ⟨fun d hd => ?_, ih hcs⟩
      rcases Memory.mem_write hd with rfl | hd
      · show c.1 < a
        omega
      · exact hc d hd

theorem Memory.write_keeps_below {m : Memory} {bound : Nat} (a : Nat) (b : Byte) (ha : a < bound) (h : m.below bound) :
    (m.write a b).below bound := fun c hc => by
  rcases Memory.mem_write hc with rfl | hc
  · exact ha
  · exact h c hc

theorem Memory.read_erase (m : Memory) (a n x : Nat) :
    (m.erase a n).read x = if a ≤ x ∧ x < a + n then none else m.read x := by
  induction m with
  | nil => simp [Memory.erase]
  | cons c cs ih =>
    unfold Memory.erase at ih ⊢
    by_cases hk : c.1 < a ∨ a + n ≤ c.1
    · rw [List.filter_cons_of_pos (by simpa using hk)]
      simp only [Memory.read, ih]
      by_cases hx : c.1 = x
      · have : ¬ (a ≤ x ∧ x < a + n) := by omega
        simp [hx, this]
      · simp [hx]
    · rw [List.filter_cons_of_neg (by simpa using hk), ih]
      simp only [Memory.read]
      by_cases hx : c.1 = x
      · have : a ≤ x ∧ x < a + n := by omega
        simp [this]
      · simp [hx]

theorem Memory.erase_keeps_wf {m : Memory} (a n : Nat) (h : m.wf) : (m.erase a n).wf := List.Pairwise.filter _ h

theorem Memory.erase_keeps_below {m : Memory} {bound : Nat} (a n : Nat) (h : m.below bound) : (m.erase a n).below bound :=
  fun c hc => h c (List.mem_of_mem_filter hc)

/-- In the canonical form a byte is read exactly where it is listed. -/
theorem Memory.read_eq_some_iff {m : Memory} (h : m.wf) (a : Nat) (b : Byte) : m.read a = some b ↔ (a, b) ∈ m := by
  induction m with
  | nil => simp
  | cons c cs ih =>
    obtain ⟨hc, hcs⟩ := List.pairwise_cons.1 h
    simp only [Memory.read, List.mem_cons]
    split_ifs with hx
    · constructor
      · intro hb
        exact .inl (Prod.ext hx.symm (Option.some.inj hb).symm)
      · rintro (hb | hb)
        · rw [← hb]
        · exact absurd (hc _ hb) (by simp [hx])
    · rw [ih hcs]
      constructor
      · exact .inr
      · rintro (hb | hb)
        · exact absurd (congrArg Prod.fst hb).symm hx
        · exact hb

/-! ## Ranges of bytes -/

theorem Memory.readBytes_zero (m : Memory) (a : Nat) : m.readBytes a 0 = some [] := rfl

/-- What a range read answers: the bytes that stand there, and it answers only if all of them are written. -/
theorem Memory.readBytes_eq_some_iff (m : Memory) (a n : Nat) (bs : List Byte) :
    m.readBytes a n = some bs ↔ bs.length = n ∧ ∀ k (h : k < bs.length), m.read (a + k) = some bs[k] := by
  induction n generalizing a bs with
  | zero =>
    simp only [Memory.readBytes, Option.some.injEq]
    constructor
    · rintro rfl
      simp
    · rintro ⟨h, -⟩
      exact (List.eq_nil_of_length_eq_zero h).symm
  | succ n ih =>
    simp only [Memory.readBytes]
    cases bs with
    | nil => cases m.read a <;> simp
    | cons c cs =>
      constructor
      · intro h
        cases hr : m.read a with
        | none => simp [hr] at h
        | some b =>
          simp only [hr, Option.map_eq_some_iff, List.cons.injEq] at h
          obtain ⟨ds, hds, rfl, rfl⟩ := h
          obtain ⟨hl, hk⟩ := (ih _ _).1 hds
          refine ⟨by simp [hl], fun k hk' => ?_⟩
          cases k with
          | zero => simpa using hr
          | succ k =>
            have := hk k (by simpa using hk')
            rw [Nat.add_right_comm] at this
            simpa [Nat.add_assoc] using this
      · rintro ⟨hl, hk⟩
        have h0 := hk 0 (by simp)
        simp only [Nat.add_zero, List.getElem_cons_zero] at h0
        rw [h0]
        have : m.readBytes (a + 1) n = some cs := (ih _ _).2 ⟨by simpa using hl, fun k hk' => by
          have := hk (k + 1) (by simpa using hk')
          simpa [Nat.add_assoc, Nat.add_comm 1 k] using this⟩
        simp [this]

theorem Memory.readBytes_length {m : Memory} {a n : Nat} {bs : List Byte} (h : m.readBytes a n = some bs) :
    bs.length = n := ((m.readBytes_eq_some_iff a n bs).1 h).1

/-- A range read faults exactly when one of its bytes is unwritten. -/
theorem Memory.readBytes_eq_none_iff (m : Memory) (a n : Nat) :
    m.readBytes a n = none ↔ ∃ x, a ≤ x ∧ x < a + n ∧ m.read x = none := by
  induction n generalizing a with
  | zero =>
    simp only [Memory.readBytes, reduceCtorEq, false_iff, not_exists]
    omega
  | succ n ih =>
    simp only [Memory.readBytes]
    cases hr : m.read a with
    | none => simpa using ⟨a, le_refl a, by omega, hr⟩
    | some b =>
      simp only [Option.map_eq_none_iff, ih]
      constructor
      · rintro ⟨x, h1, h2, h3⟩
        exact ⟨x, by omega, by omega, h3⟩
      · rintro ⟨x, h1, h2, h3⟩
        refine ⟨x, ?_, by omega, h3⟩
        rcases Nat.eq_or_lt_of_le h1 with rfl | h1
        · simp [hr] at h3
        · omega

/-- Two memories that agree on a range give the same range read. -/
theorem Memory.readBytes_congr {m m' : Memory} {a n : Nat} (h : ∀ x, a ≤ x → x < a + n → m.read x = m'.read x) :
    m.readBytes a n = m'.readBytes a n := by
  induction n generalizing a with
  | zero => rfl
  | succ n ih =>
    simp only [Memory.readBytes, h a (le_refl a) (by omega), ih (a := a + 1) fun x h1 h2 => h x (by omega) (by omega)]

theorem Memory.read_writeBytes (m : Memory) (a x : Nat) (bs : List Byte) :
    (m.writeBytes a bs).read x = if h : a ≤ x ∧ x - a < bs.length then some bs[x - a] else m.read x := by
  induction bs generalizing m a with
  | nil => simp [Memory.writeBytes]
  | cons b bs ih =>
    simp only [Memory.writeBytes, ih, Memory.read_write]
    by_cases hx : x = a
    · subst hx
      simp
    · by_cases h : a + 1 ≤ x ∧ x - (a + 1) < bs.length
      · have h' : a ≤ x ∧ x - a < (b :: bs).length := by
          simp only [List.length_cons]
          omega
        rw [dif_pos h, dif_pos h']
        have : x - a = (x - (a + 1)) + 1 := by omega
        simp [this]
      · have h' : ¬ (a ≤ x ∧ x - a < (b :: bs).length) := by
          simp only [List.length_cons]
          omega
        rw [dif_neg h, dif_neg h', if_neg hx]

theorem Memory.read_writeBytes_outside (m : Memory) {a x : Nat} (bs : List Byte) (h : x < a ∨ a + bs.length ≤ x) :
    (m.writeBytes a bs).read x = m.read x := by
  rw [Memory.read_writeBytes, dif_neg]
  omega

theorem Memory.writeBytes_keeps_wf {m : Memory} (a : Nat) (bs : List Byte) (h : m.wf) : (m.writeBytes a bs).wf := by
  induction bs generalizing m a with
  | nil => exact h
  | cons b bs ih => exact ih (a + 1) (Memory.write_keeps_wf a b h)

theorem Memory.writeBytes_keeps_below {m : Memory} {bound : Nat} (a : Nat) (bs : List Byte) (ha : a + bs.length ≤ bound)
    (h : m.below bound) : (m.writeBytes a bs).below bound := by
  induction bs generalizing m a with
  | nil => exact h
  | cons b bs ih =>
    simp only [List.length_cons] at ha
    exact ih (a + 1) (by omega) (Memory.write_keeps_below a b (by omega) h)

/-! ## Little-endian numbers -/

@[simp] theorem leBytes_length (n v : Nat) : (leBytes n v).length = n := by
  induction n generalizing v with
  | zero => rfl
  | succ n ih => simp [leBytes, ih]

/-- Byte k of a number is its base-256 digit k (00_scope R11). -/
theorem leBytes_getElem (n v k : Nat) (h : k < (leBytes n v).length) :
    (leBytes n v)[k] = BitVec.ofNat 8 (v / 256 ^ k) := by
  induction n generalizing v k with
  | zero => simp [leBytes] at h
  | succ n ih =>
    cases k with
    | zero => simp [leBytes]
    | succ k => simp [leBytes, ih, Nat.div_div_eq_div_mul, Nat.pow_succ']

theorem leValue_lt (bs : List Byte) : leValue bs < 256 ^ bs.length := by
  induction bs with
  | nil => simp [leValue]
  | cons b bs ih =>
    have := b.isLt
    simp only [leValue, List.length_cons, Nat.pow_succ']
    omega

theorem leValue_leBytes (n v : Nat) : leValue (leBytes n v) = v % 256 ^ n := by
  induction n generalizing v with
  | zero => simp [leBytes, leValue, Nat.mod_one]
  | succ n ih =>
    rw [Nat.pow_succ', Nat.mod_mul, ← ih]
    rfl

theorem Memory.readLE_eq (m : Memory) (a n : Nat) : m.readLE a n = (m.readBytes a n).map leValue := rfl

theorem Memory.readLE_congr {m m' : Memory} {a n : Nat} (h : ∀ x, a ≤ x → x < a + n → m.read x = m'.read x) :
    m.readLE a n = m'.readLE a n := by
  rw [Memory.readLE_eq, Memory.readLE_eq, Memory.readBytes_congr h]

/-- A little-endian read faults exactly when one of its bytes is unwritten. -/
theorem Memory.readLE_eq_none_iff (m : Memory) (a n : Nat) :
    m.readLE a n = none ↔ ∃ x, a ≤ x ∧ x < a + n ∧ m.read x = none := by
  rw [Memory.readLE_eq, Option.map_eq_none_iff, Memory.readBytes_eq_none_iff]

/-- A byte after a little-endian write: one of the number's digits inside the range, the old byte outside. -/
theorem Memory.read_writeLE (m : Memory) (a n v x : Nat) :
    (m.writeLE a n v).read x =
      if a ≤ x ∧ x < a + n then some (BitVec.ofNat 8 (v / 256 ^ (x - a))) else m.read x := by
  unfold Memory.writeLE
  rw [Memory.read_writeBytes]
  by_cases h : a ≤ x ∧ x < a + n
  · rw [dif_pos (by simp; omega), if_pos h, leBytes_getElem]
  · rw [dif_neg (by simp; omega), if_neg h]

theorem Memory.readBytes_writeBytes (m : Memory) (a : Nat) (bs : List Byte) :
    (m.writeBytes a bs).readBytes a bs.length = some bs := by
  rw [Memory.readBytes_eq_some_iff]
  refine ⟨rfl, fun k h => ?_⟩
  rw [Memory.read_writeBytes, dif_pos (by omega)]
  simp

/-- A little-endian read after a write of the same width at the same place. -/
theorem Memory.readLE_writeLE (m : Memory) (a n v : Nat) : (m.writeLE a n v).readLE a n = some (v % 256 ^ n) := by
  have := Memory.readBytes_writeBytes m a (leBytes n v)
  rw [leBytes_length] at this
  rw [Memory.readLE_eq, Memory.writeLE, this, Option.map_some, leValue_leBytes]

theorem Memory.writeLE_keeps_wf {m : Memory} (a n v : Nat) (h : m.wf) : (m.writeLE a n v).wf :=
  Memory.writeBytes_keeps_wf _ _ h

theorem Memory.writeLE_keeps_below {m : Memory} {bound : Nat} (a n v : Nat) (ha : a + n ≤ bound) (h : m.below bound) :
    (m.writeLE a n v).below bound := Memory.writeBytes_keeps_below _ _ (by simpa using ha) h

end Sys2Proof.Machine
end

