-- ==== Sys2Proof/Laws/Ops.lean ====
section
/-! SUPPORT. What each shared operation and each command can do, said once: if it answers a next state, then one of the
cases named. -/

namespace Sys2Proof.Machine

theorem withRead_eq_next {α : Type} {r : Option α} {k : α → Outcome} {t : State} :
    withRead r k = .next t ↔ ∃ x, r = some x ∧ k x = .next t := by
  cases r <;> simp [withRead]

@[simp] theorem withRead_some {α : Type} (x : α) (k : α → Outcome) : withRead (some x) k = k x := rfl

@[simp] theorem withRead_none {α : Type} (k : α → Outcome) : withRead none k = .fault .unwrittenRead := rfl

theorem withChecks_eq_next {e : Option ErrCode} {s : State} {body : Outcome} {t : State} :
    withChecks e s body = .next t ↔ (∃ c, e = some c ∧ t = s.raiseError c) ∨ (e = none ∧ body = .next t) := by
  cases e <;> simp [withChecks, eq_comm]

@[simp] theorem withChecks_none (s : State) (body : Outcome) : withChecks none s body = body := rfl

@[simp] theorem withChecks_some (c : ErrCode) (s : State) (body : Outcome) :
    withChecks (some c) s body = .next (s.raiseError c) := rfl

/-! ## The checks -/

theorem rangeError_eq_none_iff (p : Params) (l : Latch) : rangeError p l = none ↔ l.b + l.n ≤ p.bufCap.toNat := by
  unfold rangeError
  split_ifs with h <;> simp <;> omega

theorem encodeError_eq_none_iff (p : Params) (l : Latch) :
    encodeError p l = none ↔ l.b + l.n ≤ p.bufCap.toNat ∧ 76 ≤ l.n ∧ l.lw ≤ 0xFFFF ∧ l.lw * 4 ≤ l.n := by
  unfold encodeError hdrFixedLen
  split_ifs with h1 h2 h3 h4 <;> simp <;> omega

theorem decodeError_eq_none_iff (p : Params) (l : Latch) :
    decodeError p l = none ↔ l.b + l.n ≤ p.bufCap.toNat ∧ decodeMinBytes p.decodeMinLen ≤ l.n := by
  unfold decodeError
  split_ifs with h1 h2 <;> simp <;> omega

theorem decodeMinBytes_ge (d : DecodeMinLen) : 76 ≤ decodeMinBytes d := by cases d <;> simp [decodeMinBytes]

/-- No check of a command raises NONE. -/
theorem rangeError_ne_none {p : Params} {l : Latch} : rangeError p l ≠ some .none := by
  unfold rangeError
  split_ifs <;> simp

theorem encodeError_ne_none {p : Params} {l : Latch} : encodeError p l ≠ some .none := by
  unfold encodeError
  split_ifs <;> simp

theorem decodeError_ne_none {p : Params} {l : Latch} : decodeError p l ≠ some .none := by
  unfold decodeError
  split_ifs <;> simp

/-- lengthWords is at least 1, and the CRC field ends where the declared length does (41_header_codec R142). -/
theorem Latch.lw_pos (l : Latch) : 1 ≤ l.lw := Nat.le_add_left 1 _

theorem Latch.p_add_four (l : Latch) : l.p + 4 = l.lw * 4 := by
  have := l.lw_pos
  unfold Latch.p
  omega

theorem ceil4_eq (l : Nat) : ceil4 l = (l + 3) / 4 := by
  unfold ceil4
  split_ifs <;> omega

/-! ## The commands -/

theorem execSumr_eq_next {s t : State} :
    execSumr s = .next t ↔
      (∃ c, rangeError s.params s.latch = some c ∧ t = s.raiseError c) ∨
      (rangeError s.params s.latch = none ∧
        ∃ bs, s.buf.readBytes s.latch.b s.latch.n = some bs ∧ t = (s.setSum (addSum16 bs)).complete) := by
  simp [execSumr, withChecks_eq_next, withRead_eq_next, eq_comm (a := t)]

theorem execCrcr_eq_next {s t : State} :
    execCrcr s = .next t ↔
      (∃ c, rangeError s.params s.latch = some c ∧ t = s.raiseError c) ∨
      (rangeError s.params s.latch = none ∧
        ∃ bs, s.buf.readBytes s.latch.b s.latch.n = some bs ∧ t = (s.setCrc (crc32Raw s.params bs)).complete) := by
  simp [execCrcr, withChecks_eq_next, withRead_eq_next, eq_comm (a := t)]

/-- What ENCODE can do: raise the error its checks name, or write the block its two reads allow. -/
theorem execEncode_eq_next {s t : State} :
    execEncode s = .next t ↔
      (∃ c, encodeError s.params s.latch = some c ∧ t = s.raiseError c) ∨
      (encodeError s.params s.latch = none ∧
        ∃ header covered, ∃ m1 m2 : Memory,
          m1 = writeFields s.params.validationWord s.latch.b s.latch.lw s.buf ∧
          m1.readBytes (s.latch.b + 64) 10 = some header ∧
          m2 = m1.writeLE (s.latch.b + 74) 2 (addSum16 header).toNat ∧
          m2.readBytes s.latch.b s.latch.p = some covered ∧
          t = (s.setEncoded (m2.writeLE (s.latch.b + s.latch.p) 4 (crc32Raw s.params covered ^^^ crcOnes).toNat)
            (addSum16 header) (crc32Raw s.params covered) (BitVec.ofNat 16 s.latch.lw)).complete) := by
  simp [execEncode, encodeBlock, withChecks_eq_next, withRead_eq_next, eq_comm (a := t)]

/-- What DECODE can do: raise the error its checks name, or report what it read. -/
theorem execDecode_eq_next {s t : State} :
    execDecode s = .next t ↔
      (∃ c, decodeError s.params s.latch = some c ∧ t = s.raiseError c) ∨
      (decodeError s.params s.latch = none ∧
        ∃ f header c,
          readFields s.buf s.latch.b = some f ∧
          s.buf.readBytes (s.latch.b + 64) 10 = some header ∧
          readCrcPart s.params s.buf s.latch.b s.latch.n f.length.toNat = some c ∧
          t = (s.setDecoded (reportOf s.params f (addSum16 header) c) (addSum16 header) c.acc).complete) := by
  simp [execDecode, decodeBlock, withChecks_eq_next, withRead_eq_next, eq_comm (a := t)]

end Sys2Proof.Machine
end

