-- ==== Sys2Proof/Laws/Codec.lean ====
section
/-! SUPPORT. The laws of the header codec's steps: what ENCODE's field writes leave to be read, the sum of those bytes, and
what DECODE's field reads give. -/

namespace Sys2Proof.Machine

theorem addSum16_toNat (bs : List Byte) : (addSum16 bs).toNat = (bs.map BitVec.toNat).sum % 65536 := by
  have key : ∀ (bs : List Byte) (a : Half), (bs.foldl sumStep a).toNat = (a.toNat + (bs.map BitVec.toNat).sum) % 65536 := by
    intro bs
    induction bs with
    | nil => exact fun a => (Nat.mod_eq_of_lt a.isLt).symm
    | cons b bs ih =>
      intro a
      have := b.isLt
      simp only [List.foldl_cons, ih, sumStep, List.map_cons, List.sum_cons, BitVec.toNat_add, BitVec.toNat_setWidth]
      omega
  simpa [addSum16] using key bs 0

theorem byte_of_div (v : Word) (k : Nat) : BitVec.ofNat 8 (v.toNat / 256 ^ k) = v.extractLsb' (8 * k) 8 := by
  apply BitVec.eq_of_toNat_eq
  simp [BitVec.extractLsb'_toNat, Nat.shiftRight_eq_div_pow, Nat.pow_mul]

theorem half_byte_of_div (v : Half) (k : Nat) : BitVec.ofNat 8 (v.toNat / 256 ^ k) = v.extractLsb' (8 * k) 8 := by
  apply BitVec.eq_of_toNat_eq
  simp [BitVec.extractLsb'_toNat, Nat.shiftRight_eq_div_pow, Nat.pow_mul]

/-- A byte after steps 1 to 4 of ENCODE (41_header_codec R145). -/
theorem read_writeFields (vw : Word) (b lw : Nat) (m : Memory) (sum : Half) (a : Nat) :
    (writeFields vw b lw m).read a =
      if b + 64 ≤ a ∧ a < b + 74 then some (headerByte vw lw sum (a - b)) else m.read a := by
  simp only [writeFields, Memory.read_writeLE]
  by_cases h : b + 64 ≤ a ∧ a < b + 74
  · obtain ⟨k, rfl⟩ : ∃ k, a = b + 64 + k := ⟨a - (b + 64), by omega⟩
    have hk : k < 10 := by omega
    have h0 := byte_of_div vw 0
    have h1 := byte_of_div vw 1
    have h2 := byte_of_div vw 2
    have h3 := byte_of_div vw 3
    simp only [Nat.pow_zero, Nat.div_one, Nat.pow_one, Nat.reducePow, Nat.mul_zero, Nat.mul_one, Nat.reduceMul] at h0 h1 h2 h3
    interval_cases k <;>
      simp [headerByte, h0, h1, h2, h3, Nat.add_assoc, Nat.add_sub_add_left]
  · rw [if_neg h, if_neg (by omega), if_neg (by omega), if_neg (by omega), if_neg (by omega), if_neg (by omega)]

/-- The ten bytes ENCODE sums (41_header_codec R143). -/
def summedBytes (vw : Word) (lw : Nat) : List Byte :=
  [vw.extractLsb' 0 8, vw.extractLsb' 8 8, vw.extractLsb' 16 8, vw.extractLsb' 24 8, 0, 0,
   BitVec.ofNat 8 lw, BitVec.ofNat 8 (lw / 256), 0, 0]

theorem readBytes_writeFields (vw : Word) (b lw : Nat) (m : Memory) :
    (writeFields vw b lw m).readBytes (b + 64) 10 = some (summedBytes vw lw) := by
  rw [Memory.readBytes_eq_some_iff]
  refine ⟨rfl, fun k hk => ?_⟩
  have hk : k < 10 := hk
  rw [read_writeFields vw b lw m 0, if_pos (by omega), show b + 64 + k - b = 64 + k by omega]
  interval_cases k <;> rfl

theorem addSum16_summedBytes (vw : Word) (lw : Nat) : addSum16 (summedBytes vw lw) = hdrSum vw lw := by
  apply BitVec.eq_of_toNat_eq
  rw [addSum16_toNat]
  simp [summedBytes, hdrSum, Nat.add_assoc]

/-- A byte after ENCODE's header is complete (41_header_codec R145, R146). -/
theorem read_writeHeader (vw : Word) (b lw : Nat) (m : Memory) (a : Nat) :
    ((writeFields vw b lw m).writeLE (b + 74) 2 (hdrSum vw lw).toNat).read a =
      if b + 64 ≤ a ∧ a < b + 76 then some (headerByte vw lw (hdrSum vw lw) (a - b)) else m.read a := by
  rw [Memory.read_writeLE, read_writeFields vw b lw m (hdrSum vw lw)]
  by_cases h : b + 74 ≤ a ∧ a < b + 74 + 2
  · obtain ⟨k, rfl⟩ : ∃ k, a = b + 74 + k := ⟨a - (b + 74), by omega⟩
    have hk : k < 2 := by omega
    rw [if_pos h, if_pos (by omega), half_byte_of_div, show b + 74 + k - b = 74 + k by omega,
      show b + 74 + k - (b + 74) = k by omega]
    interval_cases k <;> rfl
  · rw [if_neg h]
    by_cases h' : b + 64 ≤ a ∧ a < b + 74
    · rw [if_pos h', if_pos (by omega)]
    · rw [if_neg h', if_neg (by omega)]

/-- The buffer once ENCODE's header is complete. -/
def State.withHeader (s : State) : Memory :=
  (writeFields s.params.validationWord s.latch.b s.latch.lw s.buf).writeLE (s.latch.b + 74) 2
    (hdrSum s.params.validationWord s.latch.lw).toNat

/-- ENCODE reads only bytes it wrote before the CRC, so it can fault only on the range the CRC covers. -/
theorem encodeBlock_eq (s : State) :
    encodeBlock s =
      withRead (s.withHeader.readBytes s.latch.b s.latch.p) fun covered =>
        .next (s.setEncoded
          (s.withHeader.writeLE (s.latch.b + s.latch.p) 4 (crc32 s.params covered).toNat)
          (hdrSum s.params.validationWord s.latch.lw) (crc32Raw s.params covered) (BitVec.ofNat 16 s.latch.lw)).complete := by
  unfold encodeBlock
  simp only [readBytes_writeFields, withRead_some, addSum16_summedBytes]
  rfl

theorem State.read_withHeader (s : State) (a : Nat) :
    s.withHeader.read a =
      if s.latch.b + 64 ≤ a ∧ a < s.latch.b + 76 then
        some (headerByte s.params.validationWord s.latch.lw (hdrSum s.params.validationWord s.latch.lw) (a - s.latch.b))
      else s.buf.read a := read_writeHeader _ _ _ _ _

end Sys2Proof.Machine
end

