-- ==== Sys2Proof/Laws/Encoding.lean ====
section
/-! SUPPORT. The decoder against the check on raw words: a word decodes to a command exactly when it is well-formed. -/

namespace Sys2Proof

theorem decodePlain_eq_cmd {i j : Instr} {d : Byte} : decodePlain i d = .cmd j ↔ d = 0 ∧ i = j := by
  by_cases h : d = 0#8 <;> simp [decodePlain, h]

/-- A word is its four fields side by side. -/
theorem word_eq_fields (w : Word) :
    w = w.extractLsb' 16 16 ++ w.extractLsb' 8 8 ++ w.extractLsb' 4 4 ++ w.extractLsb' 0 4 := by
  apply BitVec.eq_of_getLsbD_eq
  intro k hk
  simp only [BitVec.getLsbD_append, BitVec.getLsbD_extractLsb']
  by_cases h1 : k < 4
  · simp [h1]
  by_cases h2 : k < 8
  · simp [h1, show k - 4 < 4 by omega, show 4 + (k - 4) = k by omega]
  by_cases h3 : k < 16
  · simp [h1, show ¬ k - 4 < 4 by omega, show k - 4 - 4 < 8 by omega, show 8 + (k - 4 - 4) = k by omega]
  · simp [h1, show ¬ k - 4 < 4 by omega, show ¬ k - 4 - 4 < 8 by omega, show k - 4 - 4 - 8 < 16 by omega,
      show 16 + (k - 4 - 4 - 8) = k by omega]

/-- Every command is well-formed: its operand is a byte. -/
theorem Instr.wellFormed (i : Instr) : i.WellFormed := by
  cases i with
  | sumb d | crcb d =>
    have := d.isLt
    simp only [Instr.WellFormed]
    omega
  | _ => trivial

/-- The two words of the host syntax's own examples (30_encoding R87). -/
theorem encode_sumb_41 : encode (.sumb 0x41) = 0x00004102 := rfl

theorem encode_crcb_FF : encode (.crcb 0xFF) = 0x0000FF04 := rfl

end Sys2Proof
end

