-- ==== Sys2Proof/Machine/HostSyntax.lean ====
section
/-! DEFINITION. HOST's written operations and pseudo-instructions as turns of the agenda (30_encoding R88, R89). -/

namespace Sys2Proof.Machine

/-- One line of a host program (30_encoding R88). -/
inductive HostOp where
  | wr (r : Reg) (v : Word)
  | rd (r : Reg)
  | sb (a : Nat) (v : Word)
  | sh (a : Nat) (v : Word)
  | sw (a : Nat) (v : Word)
  | lb (a : Nat)
  | lh (a : Nat)
  | lw (a : Nat)
  | cmd (i : Instr)
  | comment (text : String)
  deriving DecidableEq, Repr

/-- The turns one line stands for (30_encoding R88). -/
def HostOp.events : HostOp → List Event
  | .wr r v => [.host (.regWrite r.offset .word v)]
  | .rd r => [.host (.regRead r.offset .word)]
  | .sb a v => [.host (.bufWrite a .byte v)]
  | .sh a v => [.host (.bufWrite a .half v)]
  | .sw a v => [.host (.bufWrite a .word v)]
  | .lb a => [.host (.bufRead a .byte)]
  | .lh a => [.host (.bufRead a .half)]
  | .lw a => [.host (.bufRead a .word)]
  | .cmd i => [.host (.regWrite Reg.cmd.offset .word (encode i))]
  | .comment _ => []

/-- The turns of a host program, line by line. -/
def hostEvents (ops : List HostOp) : List Event := ops.flatMap HostOp.events

/-- `WAIT` (30_encoding R89). -/
def waitEvents : List Event := [.wait]

/-- `RUN mnemonic` (30_encoding R89). -/
def runEvents (i : Instr) : List Event := (HostOp.cmd i).events ++ waitEvents

/-- `SUMRANGE b, n` (30_encoding R89). -/
def sumRange (b n : Word) : List Event := hostEvents [.wr .blkBase b, .wr .blkLen n] ++ runEvents .sumr

/-- `CRCRANGE b, n` (30_encoding R89). -/
def crcRange (b n : Word) : List Event := hostEvents [.wr .blkBase b, .wr .blkLen n] ++ runEvents .crcr

/-- `ENCODEBLK b, n, L` (30_encoding R89). -/
def encodeBlk (b n l : Word) : List Event :=
  hostEvents [.wr .blkBase b, .wr .blkLen n, .wr .payLen l] ++ runEvents .encode

/-- `DECODEBLK b, n` (30_encoding R89). -/
def decodeBlk (b n : Word) : List Event := hostEvents [.wr .blkBase b, .wr .blkLen n] ++ runEvents .decode

/-- `COPY b, [bytes]` (30_encoding R89). -/
def copyEvents : Nat → List Byte → List Event
  | _, [] => []
  | b, v :: vs => (HostOp.sb b (v.setWidth 32)).events ++ copyEvents (b + 1) vs

/-- `FILL b, n, v` (30_encoding R89). -/
def fillEvents (b n : Nat) (v : Byte) : List Event := copyEvents b (List.replicate n v)

end Sys2Proof.Machine
end

