-- ==== Sys2Proof/Machine/HostPrograms.lean ====
section
/-! DEFINITION. The host programs of 45_host_assembler: surrounding software, not part of the block (00_scope R5). Each is a
function from BUF_CAP and its inputs to the turns it puts before the machine and the failure it ends with, if any. -/

namespace Sys2Proof.Machine

/-- BUNDLE_MODE (00_scope R7, 45_host_assembler R192). -/
inductive BundleMode where
  | perOffset
  | referenceOverlap
  deriving DecidableEq, Repr

/-- Why a host program ends without its result (45_host_assembler R190 to R192, R194, R196, R197). -/
inductive HostFailure where
  /-- a payload does not fit its block (R191, R192) -/
  | oversizeError
  /-- a payload count other than four, or a length to split that is neither A nor 4 A (R192, R194) -/
  | contractViolation
  /-- a header version other than 0 (R196) -/
  | versionRefused
  /-- an ALIGN_KB outside the enumerated set (R190, log entry 24) -/
  | alignmentRefused
  /-- BUF_CAP is less than the blocks need (R191, R192, R197, log entry 24) -/
  | capacityTooSmall
  deriving DecidableEq, Repr

/-- What a host program does: the turns it takes, and the failure it ends with, if any. -/
structure HostPlan where
  turns : List Event
  failure : Option HostFailure
  deriving DecidableEq, Repr

/-- A program that takes its turns and ends with its result. -/
def HostPlan.run (es : List Event) : HostPlan := ⟨es, none⟩

/-- A program that fails and takes no turn. -/
def HostPlan.fail (why : HostFailure) : HostPlan := ⟨[], some why⟩

/-- Turns taken first, whatever follows. -/
def HostPlan.after (es : List Event) (plan : HostPlan) : HostPlan := ⟨es ++ plan.turns, plan.failure⟩

/-- The alignment block sizes in kilobytes (45_host_assembler R190). -/
def alignKbSet : List Nat := [64, 128, 256, 512, 1024, 2048, 4096]

/-- A in bytes, for an ALIGN_KB of the set (45_host_assembler R190). -/
def alignBytes (kb : Nat) : Option Nat := if kb ∈ alignKbSet then some (kb * 1024) else none

/-- A program over the alignment ALIGN_KB: "only the host programs below" check that it is in the set
(45_host_assembler R190, log entry 24). -/
def withAlignment (kb : Nat) (plan : Nat → HostPlan) : HostPlan :=
  match alignBytes kb with
  | none => .fail .alignmentRefused
  | some a => plan a

/-- A program whose blocks end at n, which must not pass BUF_CAP: the preconditions of R191 and R192 and the last duty of
R197 (45_host_assembler, log entry 24). -/
def withCapacity (cap : Word) (n : Nat) (plan : HostPlan) : HostPlan :=
  if n ≤ cap.toNat then plan else .fail .capacityTooSmall

/-- The host's OversizeError check for one payload (45_host_assembler R191). -/
def payloadOversize (a l : Nat) : Bool := decide (a < (ceil4 l + 1) * 4) || decide (0xFFFF < ceil4 l + 1)

/-- Build single image, once its inputs are checked (45_host_assembler R191). -/
def singleTurns (a : Nat) (payload : List Byte) : List Event :=
  fillEvents 0 a 0 ++ copyEvents 0 payload ++
    encodeBlk 0 (BitVec.ofNat 32 a) (BitVec.ofNat 32 payload.length) ++ hostEvents [.rd .status]

/-- Build single image (45_host_assembler R191). -/
def buildSingle (cap : Word) (kb : Nat) (payload : List Byte) : HostPlan :=
  withAlignment kb fun a =>
    withCapacity cap a <|
      if payloadOversize a payload.length then .fail .oversizeError else .run (singleTurns a payload)

/-- Each payload in its own block, from the i-th block on (45_host_assembler R192, PER_OFFSET). -/
def bundleBlocks (a : Nat) : Nat → List (List Byte) → List Event
  | _, [] => []
  | i, p :: ps =>
    copyEvents (i * a) p ++
    encodeBlk (BitVec.ofNat 32 (i * a)) (BitVec.ofNat 32 a) (BitVec.ofNat 32 p.length) ++ bundleBlocks a (i + 1) ps

/-- What a bundle program does after its FILL with PER_OFFSET: the oversize checks, then the blocks (45_host_assembler
R192). -/
def perOffsetPlan (a : Nat) (payloads : List (List Byte)) : HostPlan :=
  if payloads.any (fun p => payloadOversize a p.length) then .fail .oversizeError
  else .run (bundleBlocks a 0 payloads)

/-- What a bundle program does after its FILL with REFERENCE_OVERLAP (45_host_assembler R192). DESIGN CHOICE (log entry
23): the rule does not say what the host writes to PAY_LEN where `L0 + L1 + L2 + L3` is 2^32 or more, which no 32-bit
register holds; here it writes the sum's low 32 bits. -/
def overlapPlan (a : Nat) (payloads : List (List Byte)) : HostPlan :=
  .run (payloads.flatMap (copyEvents 0) ++
    encodeBlk 0 (BitVec.ofNat 32 (4 * a)) (BitVec.ofNat 32 (payloads.map List.length).sum))

/-- Build four-image bundle: FILL comes before the oversize checks (45_host_assembler R192). -/
def buildBundle (mode : BundleMode) (cap : Word) (kb : Nat) (payloads : List (List Byte)) : HostPlan :=
  if payloads.length ≠ 4 then .fail .contractViolation
  else
    withAlignment kb fun a =>
      withCapacity cap (4 * a) <|
        .after (fillEvents 0 (4 * a) 0) <|
          match mode with
          | .perOffset => perOffsetPlan a payloads
          | .referenceOverlap => overlapPlan a payloads

/-- The bases of the blocks of a combined buffer of length t (45_host_assembler R194). -/
def splitBases (t a : Nat) : Option (List Nat) :=
  if t = a then some [0]
  else if t = 4 * a then some [0, a, 2 * a, 3 * a]
  else none

/-- DECODE of every block and the five report words of each (45_host_assembler R195). -/
def reportTurns (a : Nat) (bases : List Nat) : List Event :=
  bases.flatMap fun b =>
    decodeBlk (BitVec.ofNat 32 b) (BitVec.ofNat 32 a) ++
    hostEvents [.rd .decVw, .rd .decHdr, .rd .decChk, .rd .decCrc, .rd .decValid]

/-- Split for decode and decode report (45_host_assembler R194, R195). -/
def decodeReport (cap : Word) (t kb : Nat) : HostPlan :=
  withAlignment kb fun a =>
    match splitBases t a with
    | none => .fail .contractViolation
    | some bases => withCapacity cap t (.run (reportTurns a bases))

/-- The collaborator's version input: only 0 is accepted (45_host_assembler R196). -/
def withVersion (version : Nat) (plan : HostPlan) : HostPlan :=
  if version = 0 then plan else .fail .versionRefused

/-- Byte j of the combined buffer after the four copies of REFERENCE_OVERLAP and before ENCODE (45_host_assembler R193). -/
def overlapByte (j : Nat) (payloads : List (List Byte)) : Byte :=
  payloads.foldl (fun b p => p.getD j b) 0

end Sys2Proof.Machine
end

