-- ==== Sys2Proof/Laws/HostPrograms.lean ====
section
/-! SUPPORT. What each host program can do, said once: where one ends with its result, its inputs passed the checks of
45_host_assembler, and its blocks lie inside BUF_CAP. -/

namespace Sys2Proof.Machine

@[simp] theorem HostPlan.run_turns (es : List Event) : (HostPlan.run es).turns = es := rfl

@[simp] theorem HostPlan.run_failure (es : List Event) : (HostPlan.run es).failure = none := rfl

@[simp] theorem HostPlan.fail_turns (why : HostFailure) : (HostPlan.fail why).turns = [] := rfl

@[simp] theorem HostPlan.fail_failure (why : HostFailure) : (HostPlan.fail why).failure = some why := rfl

@[simp] theorem HostPlan.after_turns (es : List Event) (plan : HostPlan) :
    (HostPlan.after es plan).turns = es ++ plan.turns := rfl

@[simp] theorem HostPlan.after_failure (es : List Event) (plan : HostPlan) :
    (HostPlan.after es plan).failure = plan.failure := rfl

/-- 00_scope's range of A: 65536 to 4194304. -/
theorem alignBytes_bounds {kb a : Nat} (h : alignBytes kb = some a) : 65536 ≤ a ∧ a ≤ 4194304 := by
  unfold alignBytes alignKbSet at h
  split_ifs at h with hk
  simp only [List.mem_cons, List.not_mem_nil, or_false] at hk
  cases h
  omega

theorem withAlignment_succeeds {kb : Nat} {plan : Nat → HostPlan} (h : (withAlignment kb plan).failure = none) :
    ∃ a, alignBytes kb = some a ∧ withAlignment kb plan = plan a := by
  unfold withAlignment at h ⊢
  cases ha : alignBytes kb with
  | none => simp [ha] at h
  | some a => exact ⟨a, rfl, rfl⟩

theorem withCapacity_succeeds {cap : Word} {n : Nat} {plan : HostPlan} (h : (withCapacity cap n plan).failure = none) :
    n ≤ cap.toNat ∧ withCapacity cap n plan = plan := by
  unfold withCapacity at h ⊢
  split_ifs at h ⊢ with hn
  · exact ⟨hn, rfl⟩
  · simp at h

/-- A payload that passes the host's check fits its block beside the CRC word, so its copy stays inside the block. -/
theorem length_le_of_fits {a l : Nat} (h : payloadOversize a l = false) : l + 4 ≤ a := by
  simp only [payloadOversize, ceil4_eq, Bool.or_eq_false_iff, decide_eq_false_iff_not, Nat.not_lt] at h
  omega

/-- Build single image (R191, R197). -/
theorem buildSingle_succeeds {cap : Word} {kb : Nat} {payload : List Byte}
    (h : (buildSingle cap kb payload).failure = none) :
    ∃ a, alignBytes kb = some a ∧ a ≤ cap.toNat ∧ payloadOversize a payload.length = false ∧
      (buildSingle cap kb payload).turns = singleTurns a payload := by
  unfold buildSingle at h ⊢
  obtain ⟨a, ha, e⟩ := withAlignment_succeeds h
  rw [e] at h ⊢
  obtain ⟨hc, e⟩ := withCapacity_succeeds h
  rw [e] at h ⊢
  refine ⟨a, ha, hc, ?_⟩
  split_ifs at h ⊢ with ho
  · simp at h
  · exact ⟨by simpa using ho, rfl⟩

/-- Build four-image bundle (R192, R197): FILL of the four blocks, then the blocks of its mode. -/
theorem buildBundle_succeeds {mode : BundleMode} {cap : Word} {kb : Nat} {payloads : List (List Byte)}
    (h : (buildBundle mode cap kb payloads).failure = none) :
    payloads.length = 4 ∧ ∃ a, alignBytes kb = some a ∧ 4 * a ≤ cap.toNat ∧
      match mode with
      | .perOffset =>
        (∀ p ∈ payloads, payloadOversize a p.length = false) ∧
        (buildBundle mode cap kb payloads).turns = fillEvents 0 (4 * a) 0 ++ bundleBlocks a 0 payloads
      | .referenceOverlap =>
        (buildBundle mode cap kb payloads).turns = fillEvents 0 (4 * a) 0 ++ (overlapPlan a payloads).turns := by
  unfold buildBundle at h ⊢
  split_ifs at h ⊢ with hl
  · simp at h
  · obtain ⟨a, ha, e⟩ := withAlignment_succeeds h
    rw [e] at h ⊢
    obtain ⟨hc, e⟩ := withCapacity_succeeds h
    rw [e] at h ⊢
    refine ⟨not_not.1 hl, a, ha, hc, ?_⟩
    cases mode with
    | referenceOverlap => rfl
    | perOffset =>
      simp only [HostPlan.after_failure, HostPlan.after_turns, perOffsetPlan] at h ⊢
      split_ifs at h ⊢ with ho
      · simp at h
      · exact ⟨by simpa using ho, rfl⟩

/-- A payload that does not fit ends PER_OFFSET after its FILL, before any copy or command (R192). -/
theorem buildBundle_oversize {cap : Word} {kb a : Nat} {payloads : List (List Byte)} (hl : payloads.length = 4)
    (ha : alignBytes kb = some a) (hc : 4 * a ≤ cap.toNat) (ho : ∃ p ∈ payloads, payloadOversize a p.length = true) :
    buildBundle .perOffset cap kb payloads = ⟨fillEvents 0 (4 * a) 0, some .oversizeError⟩ := by
  have hany : payloads.any (fun p => payloadOversize a p.length) = true := List.any_eq_true.2 ho
  simp [buildBundle, hl, withAlignment, ha, withCapacity, hc, perOffsetPlan, hany, HostPlan.after]

/-- The blocks of a split lie inside the combined buffer (R194). -/
theorem splitBases_inside {t a : Nat} {bases : List Nat} (h : splitBases t a = some bases) : ∀ b ∈ bases, b + a ≤ t := by
  unfold splitBases at h
  split_ifs at h <;> cases h <;> simp <;> omega

/-- Decode report (R194, R195, R197): every block decoded ends inside BUF_CAP. -/
theorem decodeReport_succeeds {cap : Word} {t kb : Nat} (h : (decodeReport cap t kb).failure = none) :
    ∃ a bases, alignBytes kb = some a ∧ splitBases t a = some bases ∧ (∀ b ∈ bases, b + a ≤ cap.toNat) ∧
      (decodeReport cap t kb).turns = reportTurns a bases := by
  unfold decodeReport at h ⊢
  obtain ⟨a, ha, e⟩ := withAlignment_succeeds h
  rw [e] at h ⊢
  cases hb : splitBases t a with
  | none => simp [hb] at h
  | some bases =>
    simp only [hb] at h ⊢
    obtain ⟨hc, e⟩ := withCapacity_succeeds h
    exact ⟨a, bases, ha, hb, fun b hm => (splitBases_inside hb b hm).trans hc, by rw [e]; rfl⟩

end Sys2Proof.Machine
end

