-- ==== Sys2Proof/Laws/PerInstr.lean ====
section
/-! SUPPORT. Statements made per command, one lemma per constructor of Instr. -/

/-- The word a command encodes to is selected by the command's own row of the opcode map (30_encoding R82). -/
def Sys2Proof.Laws.RowSelectsWord.Statement (i : Sys2Proof.Instr) : Prop :=
  i.row.selects (Sys2Proof.encode i) = true

namespace Sys2Proof.Laws.RowSelectsWord

theorem nop : Statement .nop := rfl

theorem sumclr : Statement .sumclr := rfl

theorem sumb (d : Byte) : Statement (.sumb d) := by
  revert d
  unfold Statement
  decide +kernel

theorem crcinit : Statement .crcinit := rfl

theorem crcb (d : Byte) : Statement (.crcb d) := by
  revert d
  unfold Statement
  decide +kernel

theorem sumr : Statement .sumr := rfl

theorem crcr : Statement .crcr := rfl

theorem encode : Statement .encode := rfl

theorem decode : Statement .decode := rfl

theorem clrst : Statement .clrst := rfl

end Sys2Proof.Laws.RowSelectsWord
end

