-- ==== Sys2Proof/Laws/State.lean ====
section
/-! SUPPORT. One lemma per field per update of State, each true by unfolding the update, so that no later proof unfolds a
record update. -/

namespace Sys2Proof.Machine

/-! ## complete -/

@[simp] theorem State.complete_params (s : State) : s.complete.params = s.params := rfl
@[simp] theorem State.complete_status (s : State) : s.complete.status = { s.status with busy := false, done := true } := rfl
@[simp] theorem State.complete_blkBase (s : State) : s.complete.blkBase = s.blkBase := rfl
@[simp] theorem State.complete_blkLen (s : State) : s.complete.blkLen = s.blkLen := rfl
@[simp] theorem State.complete_payLen (s : State) : s.complete.payLen = s.payLen := rfl
@[simp] theorem State.complete_sumAcc (s : State) : s.complete.sumAcc = s.sumAcc := rfl
@[simp] theorem State.complete_crcAcc (s : State) : s.complete.crcAcc = s.crcAcc := rfl
@[simp] theorem State.complete_dec (s : State) : s.complete.dec = s.dec := rfl
@[simp] theorem State.complete_encLenw (s : State) : s.complete.encLenw = s.encLenw := rfl
@[simp] theorem State.complete_latch (s : State) : s.complete.latch = s.latch := rfl
@[simp] theorem State.complete_buf (s : State) : s.complete.buf = s.buf := rfl
@[simp] theorem State.complete_rst (s : State) : s.complete.rst = s.rst := rfl
@[simp] theorem State.complete_agenda (s : State) : s.complete.agenda = s.agenda := rfl
@[simp] theorem State.complete_readData (s : State) : s.complete.readData = s.readData := rfl
@[simp] theorem State.complete_draws (s : State) : s.complete.draws = s.draws := rfl

/-! ## raiseError -/

@[simp] theorem State.raiseError_params (s : State) (code : ErrCode) : (s.raiseError code).params = s.params := rfl
@[simp] theorem State.raiseError_status (s : State) (code : ErrCode) : (s.raiseError code).status = { s.status with busy := false, done := true, err := true, errcode := code } := rfl
@[simp] theorem State.raiseError_blkBase (s : State) (code : ErrCode) : (s.raiseError code).blkBase = s.blkBase := rfl
@[simp] theorem State.raiseError_blkLen (s : State) (code : ErrCode) : (s.raiseError code).blkLen = s.blkLen := rfl
@[simp] theorem State.raiseError_payLen (s : State) (code : ErrCode) : (s.raiseError code).payLen = s.payLen := rfl
@[simp] theorem State.raiseError_sumAcc (s : State) (code : ErrCode) : (s.raiseError code).sumAcc = s.sumAcc := rfl
@[simp] theorem State.raiseError_crcAcc (s : State) (code : ErrCode) : (s.raiseError code).crcAcc = s.crcAcc := rfl
@[simp] theorem State.raiseError_dec (s : State) (code : ErrCode) : (s.raiseError code).dec = s.dec := rfl
@[simp] theorem State.raiseError_encLenw (s : State) (code : ErrCode) : (s.raiseError code).encLenw = s.encLenw := rfl
@[simp] theorem State.raiseError_latch (s : State) (code : ErrCode) : (s.raiseError code).latch = s.latch := rfl
@[simp] theorem State.raiseError_buf (s : State) (code : ErrCode) : (s.raiseError code).buf = s.buf := rfl
@[simp] theorem State.raiseError_rst (s : State) (code : ErrCode) : (s.raiseError code).rst = s.rst := rfl
@[simp] theorem State.raiseError_agenda (s : State) (code : ErrCode) : (s.raiseError code).agenda = s.agenda := rfl
@[simp] theorem State.raiseError_readData (s : State) (code : ErrCode) : (s.raiseError code).readData = s.readData := rfl
@[simp] theorem State.raiseError_draws (s : State) (code : ErrCode) : (s.raiseError code).draws = s.draws := rfl

/-! ## accept -/

@[simp] theorem State.accept_params (s : State) (w : Word) : (s.accept w).params = s.params := rfl
@[simp] theorem State.accept_status (s : State) (w : Word) : (s.accept w).status = { s.status with busy := true, done := false, err := false, errcode := .none } := rfl
@[simp] theorem State.accept_blkBase (s : State) (w : Word) : (s.accept w).blkBase = s.blkBase := rfl
@[simp] theorem State.accept_blkLen (s : State) (w : Word) : (s.accept w).blkLen = s.blkLen := rfl
@[simp] theorem State.accept_payLen (s : State) (w : Word) : (s.accept w).payLen = s.payLen := rfl
@[simp] theorem State.accept_sumAcc (s : State) (w : Word) : (s.accept w).sumAcc = s.sumAcc := rfl
@[simp] theorem State.accept_crcAcc (s : State) (w : Word) : (s.accept w).crcAcc = s.crcAcc := rfl
@[simp] theorem State.accept_dec (s : State) (w : Word) : (s.accept w).dec = s.dec := rfl
@[simp] theorem State.accept_encLenw (s : State) (w : Word) : (s.accept w).encLenw = s.encLenw := rfl
@[simp] theorem State.accept_latch (s : State) (w : Word) : (s.accept w).latch = ⟨w, s.blkBase, s.blkLen, s.payLen⟩ := rfl
@[simp] theorem State.accept_buf (s : State) (w : Word) : (s.accept w).buf = s.buf := rfl
@[simp] theorem State.accept_rst (s : State) (w : Word) : (s.accept w).rst = s.rst := rfl
@[simp] theorem State.accept_agenda (s : State) (w : Word) : (s.accept w).agenda = s.agenda := rfl
@[simp] theorem State.accept_readData (s : State) (w : Word) : (s.accept w).readData = s.readData := rfl
@[simp] theorem State.accept_draws (s : State) (w : Word) : (s.accept w).draws = s.draws := rfl

/-! ## dropCommand -/

@[simp] theorem State.dropCommand_params (s : State) : s.dropCommand.params = s.params := rfl
@[simp] theorem State.dropCommand_status (s : State) : s.dropCommand.status = { s.status with ovr := true } := rfl
@[simp] theorem State.dropCommand_blkBase (s : State) : s.dropCommand.blkBase = s.blkBase := rfl
@[simp] theorem State.dropCommand_blkLen (s : State) : s.dropCommand.blkLen = s.blkLen := rfl
@[simp] theorem State.dropCommand_payLen (s : State) : s.dropCommand.payLen = s.payLen := rfl
@[simp] theorem State.dropCommand_sumAcc (s : State) : s.dropCommand.sumAcc = s.sumAcc := rfl
@[simp] theorem State.dropCommand_crcAcc (s : State) : s.dropCommand.crcAcc = s.crcAcc := rfl
@[simp] theorem State.dropCommand_dec (s : State) : s.dropCommand.dec = s.dec := rfl
@[simp] theorem State.dropCommand_encLenw (s : State) : s.dropCommand.encLenw = s.encLenw := rfl
@[simp] theorem State.dropCommand_latch (s : State) : s.dropCommand.latch = s.latch := rfl
@[simp] theorem State.dropCommand_buf (s : State) : s.dropCommand.buf = s.buf := rfl
@[simp] theorem State.dropCommand_rst (s : State) : s.dropCommand.rst = s.rst := rfl
@[simp] theorem State.dropCommand_agenda (s : State) : s.dropCommand.agenda = s.agenda := rfl
@[simp] theorem State.dropCommand_readData (s : State) : s.dropCommand.readData = s.readData := rfl
@[simp] theorem State.dropCommand_draws (s : State) : s.dropCommand.draws = s.draws := rfl

/-! ## clearOvr -/

@[simp] theorem State.clearOvr_params (s : State) : s.clearOvr.params = s.params := rfl
@[simp] theorem State.clearOvr_status (s : State) : s.clearOvr.status = { s.status with ovr := false } := rfl
@[simp] theorem State.clearOvr_blkBase (s : State) : s.clearOvr.blkBase = s.blkBase := rfl
@[simp] theorem State.clearOvr_blkLen (s : State) : s.clearOvr.blkLen = s.blkLen := rfl
@[simp] theorem State.clearOvr_payLen (s : State) : s.clearOvr.payLen = s.payLen := rfl
@[simp] theorem State.clearOvr_sumAcc (s : State) : s.clearOvr.sumAcc = s.sumAcc := rfl
@[simp] theorem State.clearOvr_crcAcc (s : State) : s.clearOvr.crcAcc = s.crcAcc := rfl
@[simp] theorem State.clearOvr_dec (s : State) : s.clearOvr.dec = s.dec := rfl
@[simp] theorem State.clearOvr_encLenw (s : State) : s.clearOvr.encLenw = s.encLenw := rfl
@[simp] theorem State.clearOvr_latch (s : State) : s.clearOvr.latch = s.latch := rfl
@[simp] theorem State.clearOvr_buf (s : State) : s.clearOvr.buf = s.buf := rfl
@[simp] theorem State.clearOvr_rst (s : State) : s.clearOvr.rst = s.rst := rfl
@[simp] theorem State.clearOvr_agenda (s : State) : s.clearOvr.agenda = s.agenda := rfl
@[simp] theorem State.clearOvr_readData (s : State) : s.clearOvr.readData = s.readData := rfl
@[simp] theorem State.clearOvr_draws (s : State) : s.clearOvr.draws = s.draws := rfl

/-! ## setSum -/

@[simp] theorem State.setSum_params (s : State) (v : Half) : (s.setSum v).params = s.params := rfl
@[simp] theorem State.setSum_status (s : State) (v : Half) : (s.setSum v).status = s.status := rfl
@[simp] theorem State.setSum_blkBase (s : State) (v : Half) : (s.setSum v).blkBase = s.blkBase := rfl
@[simp] theorem State.setSum_blkLen (s : State) (v : Half) : (s.setSum v).blkLen = s.blkLen := rfl
@[simp] theorem State.setSum_payLen (s : State) (v : Half) : (s.setSum v).payLen = s.payLen := rfl
@[simp] theorem State.setSum_sumAcc (s : State) (v : Half) : (s.setSum v).sumAcc = v := rfl
@[simp] theorem State.setSum_crcAcc (s : State) (v : Half) : (s.setSum v).crcAcc = s.crcAcc := rfl
@[simp] theorem State.setSum_dec (s : State) (v : Half) : (s.setSum v).dec = s.dec := rfl
@[simp] theorem State.setSum_encLenw (s : State) (v : Half) : (s.setSum v).encLenw = s.encLenw := rfl
@[simp] theorem State.setSum_latch (s : State) (v : Half) : (s.setSum v).latch = s.latch := rfl
@[simp] theorem State.setSum_buf (s : State) (v : Half) : (s.setSum v).buf = s.buf := rfl
@[simp] theorem State.setSum_rst (s : State) (v : Half) : (s.setSum v).rst = s.rst := rfl
@[simp] theorem State.setSum_agenda (s : State) (v : Half) : (s.setSum v).agenda = s.agenda := rfl
@[simp] theorem State.setSum_readData (s : State) (v : Half) : (s.setSum v).readData = s.readData := rfl
@[simp] theorem State.setSum_draws (s : State) (v : Half) : (s.setSum v).draws = s.draws := rfl

/-! ## setCrc -/

@[simp] theorem State.setCrc_params (s : State) (v : Word) : (s.setCrc v).params = s.params := rfl
@[simp] theorem State.setCrc_status (s : State) (v : Word) : (s.setCrc v).status = s.status := rfl
@[simp] theorem State.setCrc_blkBase (s : State) (v : Word) : (s.setCrc v).blkBase = s.blkBase := rfl
@[simp] theorem State.setCrc_blkLen (s : State) (v : Word) : (s.setCrc v).blkLen = s.blkLen := rfl
@[simp] theorem State.setCrc_payLen (s : State) (v : Word) : (s.setCrc v).payLen = s.payLen := rfl
@[simp] theorem State.setCrc_sumAcc (s : State) (v : Word) : (s.setCrc v).sumAcc = s.sumAcc := rfl
@[simp] theorem State.setCrc_crcAcc (s : State) (v : Word) : (s.setCrc v).crcAcc = v := rfl
@[simp] theorem State.setCrc_dec (s : State) (v : Word) : (s.setCrc v).dec = s.dec := rfl
@[simp] theorem State.setCrc_encLenw (s : State) (v : Word) : (s.setCrc v).encLenw = s.encLenw := rfl
@[simp] theorem State.setCrc_latch (s : State) (v : Word) : (s.setCrc v).latch = s.latch := rfl
@[simp] theorem State.setCrc_buf (s : State) (v : Word) : (s.setCrc v).buf = s.buf := rfl
@[simp] theorem State.setCrc_rst (s : State) (v : Word) : (s.setCrc v).rst = s.rst := rfl
@[simp] theorem State.setCrc_agenda (s : State) (v : Word) : (s.setCrc v).agenda = s.agenda := rfl
@[simp] theorem State.setCrc_readData (s : State) (v : Word) : (s.setCrc v).readData = s.readData := rfl
@[simp] theorem State.setCrc_draws (s : State) (v : Word) : (s.setCrc v).draws = s.draws := rfl

/-! ## setEncoded -/

@[simp] theorem State.setEncoded_params (s : State) (m : Memory) (sum : Half) (crc : Word) (lenw : Half) : (s.setEncoded m sum crc lenw).params = s.params := rfl
@[simp] theorem State.setEncoded_status (s : State) (m : Memory) (sum : Half) (crc : Word) (lenw : Half) : (s.setEncoded m sum crc lenw).status = s.status := rfl
@[simp] theorem State.setEncoded_blkBase (s : State) (m : Memory) (sum : Half) (crc : Word) (lenw : Half) : (s.setEncoded m sum crc lenw).blkBase = s.blkBase := rfl
@[simp] theorem State.setEncoded_blkLen (s : State) (m : Memory) (sum : Half) (crc : Word) (lenw : Half) : (s.setEncoded m sum crc lenw).blkLen = s.blkLen := rfl
@[simp] theorem State.setEncoded_payLen (s : State) (m : Memory) (sum : Half) (crc : Word) (lenw : Half) : (s.setEncoded m sum crc lenw).payLen = s.payLen := rfl
@[simp] theorem State.setEncoded_sumAcc (s : State) (m : Memory) (sum : Half) (crc : Word) (lenw : Half) : (s.setEncoded m sum crc lenw).sumAcc = sum := rfl
@[simp] theorem State.setEncoded_crcAcc (s : State) (m : Memory) (sum : Half) (crc : Word) (lenw : Half) : (s.setEncoded m sum crc lenw).crcAcc = crc := rfl
@[simp] theorem State.setEncoded_dec (s : State) (m : Memory) (sum : Half) (crc : Word) (lenw : Half) : (s.setEncoded m sum crc lenw).dec = s.dec := rfl
@[simp] theorem State.setEncoded_encLenw (s : State) (m : Memory) (sum : Half) (crc : Word) (lenw : Half) : (s.setEncoded m sum crc lenw).encLenw = lenw := rfl
@[simp] theorem State.setEncoded_latch (s : State) (m : Memory) (sum : Half) (crc : Word) (lenw : Half) : (s.setEncoded m sum crc lenw).latch = s.latch := rfl
@[simp] theorem State.setEncoded_buf (s : State) (m : Memory) (sum : Half) (crc : Word) (lenw : Half) : (s.setEncoded m sum crc lenw).buf = m := rfl
@[simp] theorem State.setEncoded_rst (s : State) (m : Memory) (sum : Half) (crc : Word) (lenw : Half) : (s.setEncoded m sum crc lenw).rst = s.rst := rfl
@[simp] theorem State.setEncoded_agenda (s : State) (m : Memory) (sum : Half) (crc : Word) (lenw : Half) : (s.setEncoded m sum crc lenw).agenda = s.agenda := rfl
@[simp] theorem State.setEncoded_readData (s : State) (m : Memory) (sum : Half) (crc : Word) (lenw : Half) : (s.setEncoded m sum crc lenw).readData = s.readData := rfl
@[simp] theorem State.setEncoded_draws (s : State) (m : Memory) (sum : Half) (crc : Word) (lenw : Half) : (s.setEncoded m sum crc lenw).draws = s.draws := rfl

/-! ## setDecoded -/

@[simp] theorem State.setDecoded_params (s : State) (d : DecReport) (sum : Half) (crc : Word) : (s.setDecoded d sum crc).params = s.params := rfl
@[simp] theorem State.setDecoded_status (s : State) (d : DecReport) (sum : Half) (crc : Word) : (s.setDecoded d sum crc).status = s.status := rfl
@[simp] theorem State.setDecoded_blkBase (s : State) (d : DecReport) (sum : Half) (crc : Word) : (s.setDecoded d sum crc).blkBase = s.blkBase := rfl
@[simp] theorem State.setDecoded_blkLen (s : State) (d : DecReport) (sum : Half) (crc : Word) : (s.setDecoded d sum crc).blkLen = s.blkLen := rfl
@[simp] theorem State.setDecoded_payLen (s : State) (d : DecReport) (sum : Half) (crc : Word) : (s.setDecoded d sum crc).payLen = s.payLen := rfl
@[simp] theorem State.setDecoded_sumAcc (s : State) (d : DecReport) (sum : Half) (crc : Word) : (s.setDecoded d sum crc).sumAcc = sum := rfl
@[simp] theorem State.setDecoded_crcAcc (s : State) (d : DecReport) (sum : Half) (crc : Word) : (s.setDecoded d sum crc).crcAcc = crc := rfl
@[simp] theorem State.setDecoded_dec (s : State) (d : DecReport) (sum : Half) (crc : Word) : (s.setDecoded d sum crc).dec = d := rfl
@[simp] theorem State.setDecoded_encLenw (s : State) (d : DecReport) (sum : Half) (crc : Word) : (s.setDecoded d sum crc).encLenw = s.encLenw := rfl
@[simp] theorem State.setDecoded_latch (s : State) (d : DecReport) (sum : Half) (crc : Word) : (s.setDecoded d sum crc).latch = s.latch := rfl
@[simp] theorem State.setDecoded_buf (s : State) (d : DecReport) (sum : Half) (crc : Word) : (s.setDecoded d sum crc).buf = s.buf := rfl
@[simp] theorem State.setDecoded_rst (s : State) (d : DecReport) (sum : Half) (crc : Word) : (s.setDecoded d sum crc).rst = s.rst := rfl
@[simp] theorem State.setDecoded_agenda (s : State) (d : DecReport) (sum : Half) (crc : Word) : (s.setDecoded d sum crc).agenda = s.agenda := rfl
@[simp] theorem State.setDecoded_readData (s : State) (d : DecReport) (sum : Half) (crc : Word) : (s.setDecoded d sum crc).readData = s.readData := rfl
@[simp] theorem State.setDecoded_draws (s : State) (d : DecReport) (sum : Half) (crc : Word) : (s.setDecoded d sum crc).draws = s.draws := rfl

/-! ## setBuf -/

@[simp] theorem State.setBuf_params (s : State) (m : Memory) : (s.setBuf m).params = s.params := rfl
@[simp] theorem State.setBuf_status (s : State) (m : Memory) : (s.setBuf m).status = s.status := rfl
@[simp] theorem State.setBuf_blkBase (s : State) (m : Memory) : (s.setBuf m).blkBase = s.blkBase := rfl
@[simp] theorem State.setBuf_blkLen (s : State) (m : Memory) : (s.setBuf m).blkLen = s.blkLen := rfl
@[simp] theorem State.setBuf_payLen (s : State) (m : Memory) : (s.setBuf m).payLen = s.payLen := rfl
@[simp] theorem State.setBuf_sumAcc (s : State) (m : Memory) : (s.setBuf m).sumAcc = s.sumAcc := rfl
@[simp] theorem State.setBuf_crcAcc (s : State) (m : Memory) : (s.setBuf m).crcAcc = s.crcAcc := rfl
@[simp] theorem State.setBuf_dec (s : State) (m : Memory) : (s.setBuf m).dec = s.dec := rfl
@[simp] theorem State.setBuf_encLenw (s : State) (m : Memory) : (s.setBuf m).encLenw = s.encLenw := rfl
@[simp] theorem State.setBuf_latch (s : State) (m : Memory) : (s.setBuf m).latch = s.latch := rfl
@[simp] theorem State.setBuf_buf (s : State) (m : Memory) : (s.setBuf m).buf = m := rfl
@[simp] theorem State.setBuf_rst (s : State) (m : Memory) : (s.setBuf m).rst = s.rst := rfl
@[simp] theorem State.setBuf_agenda (s : State) (m : Memory) : (s.setBuf m).agenda = s.agenda := rfl
@[simp] theorem State.setBuf_readData (s : State) (m : Memory) : (s.setBuf m).readData = s.readData := rfl
@[simp] theorem State.setBuf_draws (s : State) (m : Memory) : (s.setBuf m).draws = s.draws := rfl

/-! ## returnRead -/

@[simp] theorem State.returnRead_params (s : State) (v : Word) : (s.returnRead v).params = s.params := rfl
@[simp] theorem State.returnRead_status (s : State) (v : Word) : (s.returnRead v).status = s.status := rfl
@[simp] theorem State.returnRead_blkBase (s : State) (v : Word) : (s.returnRead v).blkBase = s.blkBase := rfl
@[simp] theorem State.returnRead_blkLen (s : State) (v : Word) : (s.returnRead v).blkLen = s.blkLen := rfl
@[simp] theorem State.returnRead_payLen (s : State) (v : Word) : (s.returnRead v).payLen = s.payLen := rfl
@[simp] theorem State.returnRead_sumAcc (s : State) (v : Word) : (s.returnRead v).sumAcc = s.sumAcc := rfl
@[simp] theorem State.returnRead_crcAcc (s : State) (v : Word) : (s.returnRead v).crcAcc = s.crcAcc := rfl
@[simp] theorem State.returnRead_dec (s : State) (v : Word) : (s.returnRead v).dec = s.dec := rfl
@[simp] theorem State.returnRead_encLenw (s : State) (v : Word) : (s.returnRead v).encLenw = s.encLenw := rfl
@[simp] theorem State.returnRead_latch (s : State) (v : Word) : (s.returnRead v).latch = s.latch := rfl
@[simp] theorem State.returnRead_buf (s : State) (v : Word) : (s.returnRead v).buf = s.buf := rfl
@[simp] theorem State.returnRead_rst (s : State) (v : Word) : (s.returnRead v).rst = s.rst := rfl
@[simp] theorem State.returnRead_agenda (s : State) (v : Word) : (s.returnRead v).agenda = s.agenda := rfl
@[simp] theorem State.returnRead_readData (s : State) (v : Word) : (s.returnRead v).readData = v :: s.readData := rfl
@[simp] theorem State.returnRead_draws (s : State) (v : Word) : (s.returnRead v).draws = s.draws := rfl

/-! ## returnDraw -/

@[simp] theorem State.returnDraw_params (s : State) (mask : Word) : (s.returnDraw mask).params = s.params := rfl
@[simp] theorem State.returnDraw_status (s : State) (mask : Word) : (s.returnDraw mask).status = s.status := rfl
@[simp] theorem State.returnDraw_blkBase (s : State) (mask : Word) : (s.returnDraw mask).blkBase = s.blkBase := rfl
@[simp] theorem State.returnDraw_blkLen (s : State) (mask : Word) : (s.returnDraw mask).blkLen = s.blkLen := rfl
@[simp] theorem State.returnDraw_payLen (s : State) (mask : Word) : (s.returnDraw mask).payLen = s.payLen := rfl
@[simp] theorem State.returnDraw_sumAcc (s : State) (mask : Word) : (s.returnDraw mask).sumAcc = s.sumAcc := rfl
@[simp] theorem State.returnDraw_crcAcc (s : State) (mask : Word) : (s.returnDraw mask).crcAcc = s.crcAcc := rfl
@[simp] theorem State.returnDraw_dec (s : State) (mask : Word) : (s.returnDraw mask).dec = s.dec := rfl
@[simp] theorem State.returnDraw_encLenw (s : State) (mask : Word) : (s.returnDraw mask).encLenw = s.encLenw := rfl
@[simp] theorem State.returnDraw_latch (s : State) (mask : Word) : (s.returnDraw mask).latch = s.latch := rfl
@[simp] theorem State.returnDraw_buf (s : State) (mask : Word) : (s.returnDraw mask).buf = s.buf := rfl
@[simp] theorem State.returnDraw_rst (s : State) (mask : Word) : (s.returnDraw mask).rst = s.rst := rfl
@[simp] theorem State.returnDraw_agenda (s : State) (mask : Word) : (s.returnDraw mask).agenda = s.agenda := rfl
@[simp] theorem State.returnDraw_readData (s : State) (mask : Word) : (s.returnDraw mask).readData = (Config.draw s.draws &&& mask) :: s.readData := rfl
@[simp] theorem State.returnDraw_draws (s : State) (mask : Word) : (s.returnDraw mask).draws = s.draws + 1 := rfl

/-! ## assertReset -/

@[simp] theorem State.assertReset_params (s : State) : s.assertReset.params = s.params := rfl
@[simp] theorem State.assertReset_status (s : State) : s.assertReset.status = Status.reset := rfl
@[simp] theorem State.assertReset_blkBase (s : State) : s.assertReset.blkBase = 0 := rfl
@[simp] theorem State.assertReset_blkLen (s : State) : s.assertReset.blkLen = 0 := rfl
@[simp] theorem State.assertReset_payLen (s : State) : s.assertReset.payLen = 0 := rfl
@[simp] theorem State.assertReset_sumAcc (s : State) : s.assertReset.sumAcc = 0 := rfl
@[simp] theorem State.assertReset_crcAcc (s : State) : s.assertReset.crcAcc = 0xFFFFFFFF := rfl
@[simp] theorem State.assertReset_dec (s : State) : s.assertReset.dec = DecReport.reset := rfl
@[simp] theorem State.assertReset_encLenw (s : State) : s.assertReset.encLenw = 0 := rfl
@[simp] theorem State.assertReset_latch (s : State) : s.assertReset.latch = Latch.reset := rfl
@[simp] theorem State.assertReset_buf (s : State) : s.assertReset.buf = s.bufAfterReset := rfl
@[simp] theorem State.assertReset_rst (s : State) : s.assertReset.rst = true := rfl
@[simp] theorem State.assertReset_agenda (s : State) : s.assertReset.agenda = s.agenda := rfl
@[simp] theorem State.assertReset_readData (s : State) : s.assertReset.readData = s.readData := rfl
@[simp] theorem State.assertReset_draws (s : State) : s.assertReset.draws = s.draws := rfl

/-! ## deassertReset -/

@[simp] theorem State.deassertReset_params (s : State) : s.deassertReset.params = s.params := rfl
@[simp] theorem State.deassertReset_status (s : State) : s.deassertReset.status = s.status := rfl
@[simp] theorem State.deassertReset_blkBase (s : State) : s.deassertReset.blkBase = s.blkBase := rfl
@[simp] theorem State.deassertReset_blkLen (s : State) : s.deassertReset.blkLen = s.blkLen := rfl
@[simp] theorem State.deassertReset_payLen (s : State) : s.deassertReset.payLen = s.payLen := rfl
@[simp] theorem State.deassertReset_sumAcc (s : State) : s.deassertReset.sumAcc = s.sumAcc := rfl
@[simp] theorem State.deassertReset_crcAcc (s : State) : s.deassertReset.crcAcc = s.crcAcc := rfl
@[simp] theorem State.deassertReset_dec (s : State) : s.deassertReset.dec = s.dec := rfl
@[simp] theorem State.deassertReset_encLenw (s : State) : s.deassertReset.encLenw = s.encLenw := rfl
@[simp] theorem State.deassertReset_latch (s : State) : s.deassertReset.latch = s.latch := rfl
@[simp] theorem State.deassertReset_buf (s : State) : s.deassertReset.buf = s.buf := rfl
@[simp] theorem State.deassertReset_rst (s : State) : s.deassertReset.rst = false := rfl
@[simp] theorem State.deassertReset_agenda (s : State) : s.deassertReset.agenda = s.agenda := rfl
@[simp] theorem State.deassertReset_readData (s : State) : s.deassertReset.readData = s.readData := rfl
@[simp] theorem State.deassertReset_draws (s : State) : s.deassertReset.draws = s.draws := rfl

/-! ## placeCommand -/

@[simp] theorem State.placeCommand_params (s : State) (w : Word) : (s.placeCommand w).params = s.params := rfl
@[simp] theorem State.placeCommand_status (s : State) (w : Word) : (s.placeCommand w).status = { s.status with busy := true, done := false, err := false, errcode := .none } := rfl
@[simp] theorem State.placeCommand_blkBase (s : State) (w : Word) : (s.placeCommand w).blkBase = s.blkBase := rfl
@[simp] theorem State.placeCommand_blkLen (s : State) (w : Word) : (s.placeCommand w).blkLen = s.blkLen := rfl
@[simp] theorem State.placeCommand_payLen (s : State) (w : Word) : (s.placeCommand w).payLen = s.payLen := rfl
@[simp] theorem State.placeCommand_sumAcc (s : State) (w : Word) : (s.placeCommand w).sumAcc = s.sumAcc := rfl
@[simp] theorem State.placeCommand_crcAcc (s : State) (w : Word) : (s.placeCommand w).crcAcc = s.crcAcc := rfl
@[simp] theorem State.placeCommand_dec (s : State) (w : Word) : (s.placeCommand w).dec = s.dec := rfl
@[simp] theorem State.placeCommand_encLenw (s : State) (w : Word) : (s.placeCommand w).encLenw = s.encLenw := rfl
@[simp] theorem State.placeCommand_latch (s : State) (w : Word) : (s.placeCommand w).latch = ⟨w, s.blkBase, s.blkLen, s.payLen⟩ := rfl
@[simp] theorem State.placeCommand_buf (s : State) (w : Word) : (s.placeCommand w).buf = s.buf := rfl
@[simp] theorem State.placeCommand_rst (s : State) (w : Word) : (s.placeCommand w).rst = s.rst := rfl
@[simp] theorem State.placeCommand_agenda (s : State) (w : Word) : (s.placeCommand w).agenda = .engine :: s.agenda := rfl
@[simp] theorem State.placeCommand_readData (s : State) (w : Word) : (s.placeCommand w).readData = s.readData := rfl
@[simp] theorem State.placeCommand_draws (s : State) (w : Word) : (s.placeCommand w).draws = s.draws := rfl

end Sys2Proof.Machine
end

