-- ==== Sys2Proof/Laws/Step.lean ====
section
/-! SUPPORT. What one step can do, said once: if it answers a next state, it is one of the turns of `TurnOf`. -/

namespace Sys2Proof.Machine

/-- s with its first turn taken off the agenda. -/
def State.tail (s : State) : State := { s with agenda := s.agenda.tail }

/-- The turns that answer a next state, each with what its taking tells of s. -/
inductive TurnOf (s : State) : State → Prop where
  | engine {t : State} (hb : s.status.busy = true) (hn : s.EngineNext) (h : engineStep s.tail = .next t) : TurnOf s t
  | idle (hb : s.status.busy = false) (hn : s.EngineNext) : TurnOf s s.tail
  | regRead (r : Reg) : TurnOf s (s.tail.regRead r)
  | regIgnored (hr : s.rst = true) : TurnOf s s.tail
  | regWrite (r : Reg) (v : Word) (hr : s.rst = false) (hc : r = .cmd → s.CmdWriteNext v) : TurnOf s (s.tail.regWrite r v)
  | bufRead (v : Word) (hb : s.status.busy = false) : TurnOf s (s.tail.returnRead v)
  | bufWrite (a : Nat) (w : Width) (v : Word) (hb : s.status.busy = false) (ha : bufAccessOk s.params a w = true) :
      TurnOf s (s.tail.setBuf (s.buf.writeLE a w.bytes v.toNat))
  | wait : TurnOf s s.tail.waitRound
  | rstAssert (h : ∃ rest, s.agenda = .rstAssert :: rest) : TurnOf s s.tail.assertReset
  | rstDeassert : TurnOf s s.tail.deassertReset

theorem regAt_eq_cmd {off : BitVec 6} {w : Width} (h : regAt off w = some .cmd) : off = 0x00 ∧ w = .word := by
  cases w with
  | word =>
    have := List.find?_some h
    exact ⟨by simpa [Reg.offset] using (beq_iff_eq.1 this).symm, rfl⟩
  | _ => simp [regAt] at h

theorem hostRegRead_eq_next {off : BitVec 6} {w : Width} {s t : State} :
    hostRegRead off w s = .next t ↔ ∃ r, regAt off w = some r ∧ t = s.regRead r := by
  unfold hostRegRead
  cases regAt off w <;> simp [eq_comm (a := t)]

theorem hostRegWrite_eq_next {off : BitVec 6} {w : Width} {v : Word} {s t : State} :
    hostRegWrite off w v s = .next t ↔ ∃ r, regAt off w = some r ∧ t = if s.rst then s else s.regWrite r v := by
  unfold hostRegWrite
  cases regAt off w <;> simp [eq_comm (a := t)]

theorem hostBufRead_eq_next {a : Nat} {w : Width} {s t : State} :
    hostBufRead a w s = .next t ↔ s.status.busy = false ∧ bufAccessOk s.params a w = true ∧
      ∃ v, s.buf.readLE a w.bytes = some v ∧ t = s.returnRead (BitVec.ofNat 32 v) := by
  unfold hostBufRead
  cases s.status.busy <;> cases bufAccessOk s.params a w <;> simp [withRead_eq_next, eq_comm (a := t)]

theorem hostBufWrite_eq_next {a : Nat} {w : Width} {v : Word} {s t : State} :
    hostBufWrite a w v s = .next t ↔ s.status.busy = false ∧ bufAccessOk s.params a w = true ∧
      t = s.setBuf (s.buf.writeLE a w.bytes v.toNat) := by
  unfold hostBufWrite
  cases s.status.busy <;> cases bufAccessOk s.params a w <;> simp [eq_comm (a := t)]

theorem turnOf_regRead {s t : State} {off : BitVec 6} {w : Width} (h : hostRegRead off w s.tail = .next t) :
    TurnOf s t := by
  obtain ⟨r, -, rfl⟩ := hostRegRead_eq_next.1 h
  exact .regRead r

theorem turnOf_regWrite {s t : State} {off : BitVec 6} {w : Width} {v : Word} (h : hostRegWrite off w v s.tail = .next t)
    (hc : off = 0x00 → w = .word → s.CmdWriteNext v) : TurnOf s t := by
  obtain ⟨r, hr, rfl⟩ := hostRegWrite_eq_next.1 h
  cases hs : s.rst with
  | true => simpa [State.tail, hs] using TurnOf.regIgnored hs
  | false =>
    have : TurnOf s (s.tail.regWrite r v) := .regWrite r v hs fun h => by
      obtain ⟨h1, h2⟩ := regAt_eq_cmd (h ▸ hr)
      exact hc h1 h2
    simpa [State.tail, hs] using this

theorem turnOf_bufRead {s t : State} {a : Nat} {w : Width} (h : hostBufRead a w s.tail = .next t) : TurnOf s t := by
  obtain ⟨hb, -, v, -, rfl⟩ := hostBufRead_eq_next.1 h
  exact .bufRead _ hb

theorem turnOf_bufWrite {s t : State} {a : Nat} {w : Width} {v : Word} (h : hostBufWrite a w v s.tail = .next t) :
    TurnOf s t := by
  obtain ⟨hb, ha, rfl⟩ := hostBufWrite_eq_next.1 h
  exact .bufWrite a w v hb ha

theorem turnOf_engine {s t : State} (hn : s.EngineNext) (h : engineTurn s.tail = .next t) : TurnOf s t := by
  unfold engineTurn at h
  split_ifs at h with hb
  · exact .engine hb hn h
  · cases h
    exact .idle (by simpa [State.tail] using hb) hn

/-- What a step can do. -/
theorem step_next_cases {s t : State} (h : step s = .next t) : TurnOf s t := by
  unfold step takeTurn at h
  split at h
  case h_1 ha =>
    have hs : s.tail = s := by
      cases s
      simp_all [State.tail]
    exact turnOf_engine (.inl ha) (hs.symm ▸ h)
  case h_2 e rest ha =>
    have hs : { s with agenda := rest } = s.tail := by simp [State.tail, ha]
    rw [hs] at h
    cases e with
    | host a =>
      cases a with
      | regRead off w => exact turnOf_regRead h
      | regWrite off w v => exact turnOf_regWrite h fun h1 h2 => ⟨rest, .inl (by rw [ha, h1, h2])⟩
      | bufRead x w => exact turnOf_bufRead h
      | bufWrite x w v => exact turnOf_bufWrite h
    | bus a =>
      cases a with
      | read addr w =>
        simp only [perform, busAccess] at h
        split at h
        · exact turnOf_regRead h
        · exact turnOf_bufRead h
        · cases h
        · cases h
      | write addr w v =>
        simp only [perform, busAccess] at h
        split at h
        case h_1 off hoff =>
          exact turnOf_regWrite h fun h1 h2 => ⟨rest, .inr ⟨addr, by rw [ha, h2], h1 ▸ hoff⟩⟩
        case h_2 x hx => exact turnOf_bufWrite h
        · cases h
        · cases h
    | wait =>
      cases h
      exact .wait
    | engine => exact turnOf_engine (.inr ⟨rest, ha⟩) h
    | rstAssert =>
      cases h
      exact .rstAssert ⟨rest, ha⟩
    | rstDeassert =>
      cases h
      exact .rstDeassert
    | secondHost a => cases h

/-- What a read of a register can do: it returns a value, drawn or exact, and changes nothing of the block. -/
theorem State.regRead_cases (s : State) (r : Reg) :
    s.regRead r = s.returnRead (s.regValue r) ∨
      ∃ mask, s.status.busy = true ∧ r.drawMask = some mask ∧ s.regRead r = s.returnDraw mask := by
  unfold State.regRead
  split
  case h_1 mask hb hm => exact .inr ⟨mask, hb, hm, rfl⟩
  case h_2 => exact .inl rfl

/-- What an ENGINE step can do: the command's meaning, or ILLEGAL_CMD. -/
theorem engineStep_cases (s : State) :
    (∃ i, decode s.latch.word = .cmd i ∧ engineStep s = exec i s) ∨
      ∃ why, decode s.latch.word = .illegal why ∧ engineStep s = .next (s.raiseError .illegalCmd) := by
  unfold engineStep
  cases decode s.latch.word with
  | cmd i => exact .inl ⟨i, rfl, rfl⟩
  | illegal why => exact .inr ⟨why, rfl, rfl⟩

end Sys2Proof.Machine
end

