-- ==== Sys2Proof/Tests/Slice0.lean ====
section
/-! SUPPORT. Tests whose expected values stand in 95_test_vectors.md, the smoke test of the well-formedness checks, and for
each statement with hypotheses a witness that meets them. -/

namespace Sys2Proof.Tests

set_option Elab.async false

open Sys2Proof Sys2Proof.Machine

/-! ## Small states -/

def nextOf (o : Outcome) : Option State :=
  match o with
  | .next s => some s
  | .fault _ => none
  | .refused _ => none

def faultOf (o : Outcome) : Option Fault :=
  match o with
  | .next _ => none
  | .fault f => some f
  | .refused _ => none

def refusalOf (o : Outcome) : Option Refusal :=
  match o with
  | .next _ => none
  | .fault _ => none
  | .refused r => some r

theorem exists_next {o : Outcome} (h : (nextOf o).isSome = true) : ∃ t, o = .next t := by
  cases o with
  | next t => exact ⟨t, rfl⟩
  | fault f => simp [nextOf] at h
  | refused r => simp [nextOf] at h

/-- The bytes bs from offset a on, and nothing else. -/
def place (a : Nat) (bs : List Byte) : Memory := Memory.writeBytes [] a bs

/-- n zero bytes from offset a on. -/
def zeros (a n : Nat) : Memory := (List.range n).map fun k => (a + k, 0)

/-- A command in flight on the block of n bytes at b, with the payload length l, over the memory m. -/
def onBlock (b n l : Nat) (m : Memory) : State :=
  { State.reset with
    status := Status.reset.accepted
    latch := ⟨0, BitVec.ofNat 32 b, BitVec.ofNat 32 n, BitVec.ofNat 32 l⟩
    buf := m }

/-- Right after reset, with turns to take. -/
def idleWith (es : List Event) : State := { State.reset with agenda := es }

/-- The word w in flight, with turns to take. -/
def busyWith (w : Word) (es : List Event) : State :=
  { State.reset with status := Status.reset.accepted, latch := ⟨w, 0, 0, 0⟩, agenda := es }

/-- 76 bytes at b: zeros but for the validation word, a length field and a sum field that is right for it (95, section 6). -/
def headed (b : Nat) (ln sumLow : Byte) : Memory :=
  (zeros b 76).writeBytes (b + 64) [0x41, 0x53, 0x30, 0x31, 0, 0, ln, 0, 0, 0, sumLow, 0]

/-! ## Well-formedness: each check refuses an ill-formed term -/

theorem test_wf_rsv1 : CommandWord.rsv1Zero 0x00010003 = false ∧ CommandWord.wellFormed 0x00010003 = false := by decide

theorem test_wf_rsv0 : CommandWord.rsv0Zero 0x00000110 = false ∧ CommandWord.wellFormed 0x00000110 = false := by decide

theorem test_wf_opcode : CommandWord.opDefined 0x0000000A = false ∧ CommandWord.wellFormed 0x0000000A = false := by decide

theorem test_wf_data8 : CommandWord.data8Allowed 0x00000101 = false ∧ CommandWord.wellFormed 0x00000101 = false := by decide

theorem test_wf_accepts : CommandWord.wellFormed 0x0000FF04 = true := by decide

theorem test_wf_small_buffer : ¬ ({ defaultParams with bufCap := 75 } : Params).WellFormed :=
  fun h => absurd h.capMin (by decide)

theorem test_wf_wrong_polynomial : ¬ ({ defaultParams with crcImpl := .serial 0x04C11DB6 } : Params).WellFormed :=
  fun h => absurd (h.serialTable _ rfl 1) (by decide +kernel)

/-- The default table is the one its polynomial generates (93, G2). -/
theorem test_default_table : ∀ i : Byte, tableEntry defaultCrcTable i = tgen 0x04C11DB7 i := by decide +kernel

theorem defaultParams_wellFormed : defaultParams.WellFormed where
  capMin := by decide
  serialTable := fun _ h => nomatch h

def serialParams : Params := { defaultParams with crcImpl := .serial 0x04C11DB7 }

theorem serialParams_wellFormed : serialParams.WellFormed where
  capMin := by decide
  serialTable := fun _ h => by
    cases h
    exact test_default_table

/-! ## Decoding: words of V-DECW, one for each constructor and each illegal form -/

theorem test_decode_nop : decode 0x00000000 = .cmd .nop := by decide

theorem test_decode_sumclr : decode 0x00000001 = .cmd .sumclr := by decide

theorem test_decode_sumb : decode 0x00004102 = .cmd (.sumb 0x41) ∧ decode 0x00000002 = .cmd (.sumb 0x00) := by decide

theorem test_decode_crcinit : decode 0x00000003 = .cmd .crcinit := by decide

theorem test_decode_crcb : decode 0x0000FF04 = .cmd (.crcb 0xFF) := by decide

theorem test_decode_sumr : decode 0x00000005 = .cmd .sumr := by decide

theorem test_decode_crcr : decode 0x00000006 = .cmd .crcr := by decide

theorem test_decode_encode : decode 0x00000007 = .cmd .encode := by decide

theorem test_decode_decode : decode 0x00000008 = .cmd .decode := by decide

theorem test_decode_clrst : decode 0x00000009 = .cmd .clrst := by decide

theorem test_decode_illegal :
    decode 0x0000000A = .illegal .opcode ∧ decode 0x0000000F = .illegal .opcode ∧ decode 0x00000110 = .illegal .rsv0 ∧
    decode 0x00010003 = .illegal .rsv1 ∧ decode 0x00000101 = .illegal .data8 ∧ decode 0x00000100 = .illegal .data8 ∧
    decode 0x80000007 = .illegal .rsv1 ∧ decode 0x00000F08 = .illegal .data8 := by decide

/-- 30_encoding R87. -/
theorem test_assemble :
    assemble ['S', 'U', 'M', 'B'] (some ['0', 'x', '4', '1']) = some (.sumb 0x41) ∧
    assemble ['C', 'R', 'C', 'B'] (some ['2', '5', '5']) = some (.crcb 0xFF) ∧
    assemble ['S', 'U', 'M', 'B'] (some ['2', '5', '6']) = none ∧
    assemble ['N', 'O', 'P'] none = some .nop ∧ assemble ['N', 'O', 'P'] (some ['0']) = none ∧
    assemble ['S', 'U', 'M', 'B'] none = none := by decide +kernel

theorem test_table_word : decodeTableWord 32 0x00004102 = some (.sumb 0x41) ∧ decodeTableWord 32 0x0A = none := by decide

/-! ## One step of each command -/

/-- V-CTL-1, V-CTL-3: STATUS 0x36 becomes 0x02, 0x0A stays. -/
theorem test_nop :
    (nextOf (step ({ State.reset with status := ⟨false, true, true, false, .short⟩ }.withFetchWord 32 0))).map
      (·.status.word) = some 0x00000002 ∧
    (nextOf (step ({ State.reset with status := ⟨false, true, false, true, .none⟩ }.withFetchWord 32 0))).map
      (·.status.word) = some 0x0000000A := by decide +kernel

/-- V-CTL-2. -/
theorem test_clrst :
    (nextOf (step ({ State.reset with status := ⟨false, true, false, true, .none⟩ }.withFetchWord 32 9))).map
      (·.status.word) = some 0x00000002 := by decide +kernel

/-- V-SUM-1. -/
theorem test_sumclr :
    (nextOf (step ({ State.reset with sumAcc := 0x1234 }.withFetchWord 32 1))).map (·.sumAcc) = some 0x0000 := by
  decide +kernel

/-- V-SUM-2, V-SUM-4. -/
theorem test_sumb :
    (nextOf (step ({ State.reset with sumAcc := 0x00FF }.withFetchWord 32 0x0102))).map (·.sumAcc) = some 0x0100 ∧
    (nextOf (step ({ State.reset with sumAcc := 0xFF01 }.withFetchWord 32 0xFF02))).map (·.sumAcc) = some 0x0000 := by
  decide +kernel

/-- V-CRC-1. -/
theorem test_crcinit :
    (nextOf (step ({ State.reset with crcAcc := 0x12345678 }.withFetchWord 32 3))).map
      (fun t => (t.crcAcc, t.regValue .crcResult)) = some (0xFFFFFFFF, 0) := by decide +kernel

/-- V-CRC-4a, V-CRC-4d. -/
theorem test_crcb :
    (nextOf (step (State.reset.withFetchWord 32 0x4104))).map (·.crcAcc) = some 0x7E4FD274 ∧
    (nextOf (step ({ State.reset with crcAcc := 0x80000000 }.withFetchWord 32 0x0004))).map (·.crcAcc) =
      some 0x690CE0EE := by decide +kernel

/-- V-CRC-4a on the bit-serial datapath (95, section 4: "Bit-serial check"). -/
theorem test_crcb_serial :
    (nextOf (step ({ State.reset with params := serialParams }.withFetchWord 32 0x4104))).map (·.crcAcc) =
      some 0x7E4FD274 := by decide +kernel

/-- V-SUM-11, V-SUM-7. -/
theorem test_sumr :
    (nextOf (exec .sumr (onBlock 5 9 0 (place 5 [0x31, 0x32, 0x33, 0x34, 0x35, 0x36, 0x37, 0x38, 0x39])))).map
      (fun t => (t.sumAcc, t.status.word)) = some (0x01DD, 0x00000002) ∧
    (nextOf (exec .sumr { onBlock 0x3FFFF 2 0 [] with sumAcc := 0x1234 })).map (fun t => (t.sumAcc, t.status.word)) =
      some (0x1234, 0x00000026) := by decide +kernel

/-- V-CRC-6, V-CRC-7. -/
theorem test_crcr :
    (nextOf (exec .crcr (onBlock 5 9 0 (place 5 [0x31, 0x32, 0x33, 0x34, 0x35, 0x36, 0x37, 0x38, 0x39])))).map (·.crcAcc) =
      some 0x0376E6E7 ∧
    (nextOf (exec .crcr { onBlock 0x40000 0 0 [] with crcAcc := 5 })).map (fun t => (t.crcAcc, t.regValue .crcResult)) =
      some (0xFFFFFFFF, 0) := by decide +kernel

/-- V-ENC-15: the CRC field overwrites the header. -/
theorem test_encode :
    (nextOf (exec .encode (onBlock 0 76 72 (zeros 0 76)))).map
      (fun t => (t.sumAcc, t.crcAcc, t.encLenw, t.buf.readBytes 64 12)) =
    some (0x0108, 0x86639D91, 19, some [0x41, 0x53, 0x30, 0x31, 0, 0, 0x13, 0, 0x6E, 0x62, 0x9C, 0x79]) := by
  decide +kernel

/-- V-ENC-13, V-ENC-14, V-ENC-16, V-ENC-17. -/
theorem test_encode_errors :
    [(0, 75, 0), (0, 76, 73), (0, 100, 262137), (0x3FFB5, 76, 0)].map
      (fun (b, n, l) => (nextOf (exec .encode (onBlock b n l []))).map (·.status.word)) =
    [some 0x36, some 0x56, some 0x46, some 0x26] := by decide +kernel

/-- V-DEC-5, V-DEC-6, V-DEC-3. -/
theorem test_decode_blocks :
    (nextOf (exec .decode (onBlock 0 76 0 (zeros 0 76)))).map (·.dec.validWord) = some 0x0A ∧
    (nextOf (exec .decode (onBlock 0 76 0 (headed 0 1 0xF6)))).map (·.dec.validWord) = some 0x1B ∧
    (nextOf (exec .decode (onBlock 0 76 0 ((headed 0 20 9).write 75 1)))).map (·.dec.validWord) = some 0x0B := by
  decide +kernel

/-- V-DEC-6a, V-DEC-14. -/
theorem test_decode_corrupt_and_short :
    (nextOf (exec .decode (onBlock 0 76 0 ((headed 0 1 0xF6).write 0 1)))).map
      (fun t => (t.dec.validWord, t.dec.crc)) = some (0x2B, 1) ∧
    (nextOf (exec .decode { onBlock 0 77 0 (zeros 0 77) with
      params := { defaultParams with decodeMinLen := .len78 } })).map (·.status.word) = some 0x36 := by decide +kernel

/-! ## HOST and reset -/

/-- V-CTL-8, V-CTL-10, V-RST-2. -/
theorem test_host_stops :
    faultOf (step (busyWith 3 [.host (.bufWrite 0 .byte 0)])) = some .bufferWhileBusy ∧
    refusalOf (step (idleWith [.host (.regWrite 0x08 .half 5)])) = some .registerAccess ∧
    refusalOf (step (idleWith [.host (.regRead 0x06 .word)])) = some .registerAccess ∧
    faultOf (step (idleWith [.host (.bufRead 0 .byte)])) = some .unwrittenRead := by decide +kernel

/-- V-CTL-4: STATUS 0x09 after the dropped word, 0x0A after the ENGINE's turn. -/
theorem test_overrun :
    (nextOf (run 1 (busyWith 3 [.host (.regWrite 0x00 .word 1), .engine]))).map (·.status.word) = some 0x09 ∧
    (nextOf (run 2 (busyWith 3 [.host (.regWrite 0x00 .word 1), .engine]))).map (·.status.word) = some 0x0A := by
  decide +kernel

/-- 30_encoding R89 with 20_memory R54: `COPY`, then `LW`, is little-endian; `RUN` ends at STATUS 0x02. -/
theorem test_host_program :
    (nextOf (run 5 (idleWith (copyEvents 0 [0x41, 0x53, 0x30, 0x31] ++ hostEvents [.lw 0])))).map (·.readData) =
      some [0x31305341] ∧
    (nextOf (run 5 (idleWith (runEvents (.sumb 5) ++ hostEvents [.rd .sum])))).map (·.readData) =
      some [5, 0x02, 0x01] := by decide +kernel

/-- V-RST-3 on a smaller block: the abandoned ENCODE's write set (here lw = 1) is unwritten, other bytes stay. -/
theorem test_reset_erases_write_set :
    (nextOf (step { onBlock 0 76 0 (zeros 0 80) with latch := ⟨7, 0, 76, 0⟩, agenda := [.rstAssert] })).map
      (fun t => (t.buf.read 3, t.buf.read 4, t.buf.read 63, t.buf.read 64, t.buf.read 75, t.buf.read 76)) =
    some (none, some 0, some 0, none, none, some 0) := by decide +kernel

/-- 45_host_assembler R190, R192, R194, R196, R197: what issues no command, at the reset instance's BUF_CAP 0x40000. -/
theorem test_host_failures :
    buildSingle 0x40000 63 [] = .fail .alignmentRefused ∧ buildSingle 0x40000 512 [] = .fail .capacityTooSmall ∧
    buildBundle .perOffset 0x40000 64 [[], [], []] = .fail .contractViolation ∧
    buildBundle .perOffset 0x3FFFF 64 [[], [], [], []] = .fail .capacityTooSmall ∧
    decodeReport 0x40000 131072 64 = .fail .contractViolation ∧ decodeReport 0x3FFFF 262144 64 = .fail .capacityTooSmall ∧
    withVersion 1 (decodeReport 0x40000 65536 64) = .fail .versionRefused := by decide +kernel

/-- PROG3: 262144 bytes split into four blocks of 65536, each decoded and its five report words read. -/
theorem test_decode_report :
    decodeReport 0x40000 262144 64 = .run (reportTurns 65536 [0x00000, 0x10000, 0x20000, 0x30000]) ∧
    (reportTurns 65536 [0x00000, 0x10000, 0x20000, 0x30000]).length = 36 := by decide +kernel

/-- 45_host_assembler R192: a payload that does not fit ends PER_OFFSET after its FILL, before any copy or command. -/
theorem test_bundle_oversize_after_fill :
    buildBundle .perOffset 0x40000 64 [[], [], [], List.replicate 65533 0] =
      ⟨fillEvents 0 (4 * 65536) 0, some .oversizeError⟩ :=
  buildBundle_oversize (cap := 0x40000) (kb := 64) (a := 65536)
    (payloads := [[], [], [], List.replicate 65533 0]) rfl (by decide) (by decide)
    ⟨List.replicate 65533 0, .tail _ (.tail _ (.tail _ (.head _))), by rw [List.length_replicate]; decide⟩

/-! ## Witnesses: each meets the hypotheses of the statement it names, clause by clause -/

theorem witness_DecodeInvertsEncode : decode 0x0000FF02 = .cmd (.sumb 0xFF) := by decide

theorem witness_OpcodeMapSelectsCommands :
    decode 0x0000FF04 = .cmd (.crcb 0xFF) ∧ Instr.row (.crcb 0xFF) ∈ opcodeMap ∧
    (0x0000FF04 : Word) &&& (Instr.row (.crcb 0xFF)).mask = (Instr.row (.crcb 0xFF)).pattern := by decide

theorem witness_IllegalWordsOnlyRaise :
    (busyWith 0x80000007 [.engine]).status.busy = true ∧ (busyWith 0x80000007 [.engine]).agenda = .engine :: [] ∧
    IllegalForm 0x80000007 ∧ IllegalForm 0x0000000A ∧ IllegalForm 0x0000000F ∧ IllegalForm 0x00000010 ∧
    IllegalForm 0x00000109 ∧ ¬ IllegalForm 0x0000FF02 ∧ ¬ IllegalForm 0x00000009 := by
  unfold IllegalForm
  decide

theorem witness_EngineRunsDecodedCommand :
    (busyWith 0x9 []).status.busy = true ∧ decode (busyWith 0x9 []).latch.word = .cmd .clrst ∧ (busyWith 0x9 []).agenda = [] ∧
    (busyWith 0x9 [.engine]).status.busy = true ∧ decode (busyWith 0x9 [.engine]).latch.word = .cmd .clrst ∧
    (busyWith 0x9 [.engine]).agenda = .engine :: [] := by decide

/-- HOST writes the command word w to CMD on an idle and on a busy machine (NOP, CLRST and CMD statements). -/
theorem witness_cmd_write (w : Word) :
    (idleWith [.host (.regWrite 0x00 .word w), .engine]).status.busy = false ∧
    (idleWith [.host (.regWrite 0x00 .word w), .engine]).rst = false ∧
    (idleWith [.host (.regWrite 0x00 .word w), .engine]).agenda = .host (.regWrite 0x00 .word w) :: .engine :: [] ∧
    (busyWith 3 [.host (.regWrite 0x00 .word w)]).status.busy = true ∧
    (busyWith 3 [.host (.regWrite 0x00 .word w)]).rst = false ∧
    (busyWith 3 [.host (.regWrite 0x00 .word w)]).agenda = .host (.regWrite 0x00 .word w) :: [] :=
  ⟨rfl, rfl, rfl, rfl, rfl, rfl⟩

theorem witness_NopOnlyCompletes : (0x80000000 : Word).extractLsb' 0 4 = 0 ∧ (0x80000000 : Word) ≠ 0 := by decide

theorem witness_ClrstClearsOverrun :
    Instr.nop ≠ .clrst ∧ (∃ t, exec .nop State.reset = .next t) ∧ (busyWith 7 [.rstAssert]).agenda = .rstAssert :: [] ∧
    (0x00000109 : Word).extractLsb' 0 4 = 9 ∧ (0x00000109 : Word) ≠ 9 :=
  ⟨by decide, ⟨_, rfl⟩, rfl, by decide, by decide⟩

theorem witness_reserved_words :
    (0x00000101 : Word).extractLsb' 0 4 = 1 ∧ (0x00000101 : Word) ≠ 1 ∧
    (0x00000012 : Word).extractLsb' 0 4 = 2 ∧ (0x00000013 : Word).extractLsb' 0 4 = 3 ∧ (0x00000013 : Word) ≠ 3 ∧
    (0x00010004 : Word).extractLsb' 0 4 = 4 ∧ (0x00000105 : Word).extractLsb' 0 4 = 5 ∧ (0x00000105 : Word) ≠ 5 ∧
    (0x00000106 : Word).extractLsb' 0 4 = 6 ∧ (0x00000106 : Word) ≠ 6 ∧
    (0x80000007 : Word).extractLsb' 0 4 = 7 ∧ (0x80000007 : Word) ≠ 7 ∧
    (0x00000F08 : Word).extractLsb' 0 4 = 8 ∧ (0x00000F08 : Word) ≠ 8 := by decide

/-- Two bytes that end at BUF_CAP, a range that passes it by one, and an unwritten byte (SUMR and CRCR). -/
theorem witness_ranges :
    (let s := onBlock 0x3FFFE 2 0 (place 0x3FFFE [0xFF, 0x01])
     s.params.WellFormed ∧ s.latch.base.toNat + s.latch.len.toNat ≤ s.params.bufCap.toNat ∧
     [(0xFF : Byte), 0x01].length = s.latch.len.toNat ∧ s.buf.Holds s.latch.base.toNat [0xFF, 0x01]) ∧
    (let s := onBlock 0x3FFFF 2 0 []
     s.params.bufCap.toNat < s.latch.base.toNat + s.latch.len.toNat) ∧
    (let s := onBlock 0x3FFFF 1 0 []
     s.latch.base.toNat + s.latch.len.toNat ≤ s.params.bufCap.toNat ∧
     s.latch.base.toNat ≤ 0x3FFFF ∧ 0x3FFFF < s.latch.base.toNat + s.latch.len.toNat ∧ s.buf.read 0x3FFFF = none) := by
  refine ⟨⟨defaultParams_wellFormed, by decide +kernel, rfl, ?_⟩, by decide +kernel, by decide +kernel⟩
  unfold Memory.Holds
  decide +kernel

theorem witness_StreamedSumIsSum : (List.replicate 257 (0xFF : Byte)).length < 258 := by decide +kernel

theorem witness_CrcinitPresetsCrc : ∃ t, exec .crcinit State.reset = .next t := ⟨_, rfl⟩

theorem witness_CrcbStepsCrc : State.reset.params.WellFormed ∧ ({ State.reset with params := serialParams } : State).params.WellFormed :=
  ⟨defaultParams_wellFormed, serialParams_wellFormed⟩

theorem witness_SerialDatapathMatchesTable :
    (∀ i : Byte, tableEntry defaultCrcTable i = tgen 0x04C11DB7 i) ∧ serialParams.WellFormed :=
  ⟨test_default_table, serialParams_wellFormed⟩

theorem witness_TableEntriesAreUnsigned : 31 < 32 := by decide

/-- The smallest block, ending at BUF_CAP, with the CRC field at offset 0 (lw 1) and at its end (lw 19). -/
theorem witness_EncodeWritesBlock :
    ∀ l ∈ [0, 72],
      let s := onBlock 0x3FFB4 76 l (zeros 0x3FFB4 76)
      let lw := (s.latch.paylen.toNat + 3) / 4 + 1
      s.latch.base.toNat + s.latch.len.toNat ≤ s.params.bufCap.toNat ∧ 76 ≤ s.latch.len.toNat ∧ lw ≤ 0xFFFF ∧
      lw * 4 ≤ s.latch.len.toNat ∧
      ∀ x, x < lw * 4 - 4 → (x < 64 ∨ 76 ≤ x) → s.buf.read (s.latch.base.toNat + x) ≠ none := by decide +kernel

theorem witness_ErrorPriority :
    (busyWith 7 [.host (.regWrite 0x00 .word 0x0A)]).status.busy = true ∧
    (busyWith 7 [.host (.regWrite 0x00 .word 0x0A)]).rst = false ∧
    (busyWith 0x0A [.engine]).status.busy = true ∧ decode (busyWith 0x0A [.engine]).latch.word = .illegal .opcode ∧
    (let s := onBlock 0x40000 1 300000 []
     ¬ s.latch.base.toNat + s.latch.len.toNat ≤ s.params.bufCap.toNat) ∧
    (let s := onBlock 0 75 300000 []
     s.latch.base.toNat + s.latch.len.toNat ≤ s.params.bufCap.toNat ∧ s.latch.len.toNat < 76) ∧
    (let s := onBlock 0 76 262137 []
     s.latch.base.toNat + s.latch.len.toNat ≤ s.params.bufCap.toNat ∧ 76 ≤ s.latch.len.toNat ∧
     0xFFFF < (s.latch.paylen.toNat + 3) / 4 + 1) ∧
    (let s := onBlock 0 76 73 []
     s.latch.base.toNat + s.latch.len.toNat ≤ s.params.bufCap.toNat ∧ 76 ≤ s.latch.len.toNat ∧
     (s.latch.paylen.toNat + 3) / 4 + 1 ≤ 0xFFFF ∧ s.latch.len.toNat < ((s.latch.paylen.toNat + 3) / 4 + 1) * 4) := by
  decide +kernel

/-- DECODE of 76 bytes at 0 in the three cases: length 0, a length that passes the block, and length 1. -/
theorem witness_DecodeReportsBlock :
    (zeros 0 76).Holds (0 + 64) (List.replicate 12 0) ∧
    (headed 0 20 9).Holds (0 + 64) [0x41, 0x53, 0x30, 0x31, 0, 0, 20, 0, 0, 0, 9, 0] ∧
    (76 : Nat) < ((0 : Byte) ++ (20 : Byte) : Half).toNat * 4 ∧
    (headed 0 1 0xF6).Holds (0 + 64) [0x41, 0x53, 0x30, 0x31, 0, 0, 1, 0, 0, 0, 0xF6, 0] ∧
    ((0 : Byte) ++ (1 : Byte) : Half) ≠ 0 ∧ ((0 : Byte) ++ (1 : Byte) : Half).toNat * 4 ≤ 76 ∧
    (headed 0 1 0xF6).Holds 0 [] ∧ (headed 0 1 0xF6).Holds (0 + (1 * 4 - 4)) [0, 0, 0, 0] := by
  unfold Memory.Holds
  decide +kernel

/-- DECODE's errors at their boundaries: B + N one beyond BUF_CAP, N one below each DECODE_MIN_LEN. -/
theorem witness_decode_errors :
    (onBlock 0x3FFB5 76 0 []).params.bufCap.toNat < 0x3FFB5 + 76 ∧
    0 + (onBlock 0 75 0 []).latch.len.toNat ≤ defaultParams.bufCap.toNat ∧ (onBlock 0 75 0 []).latch.len.toNat < 76 ∧
    (onBlock 0 77 0 []).latch.len.toNat < 78 := by decide +kernel

/-- A DECODE that completes, its checks passed (DecodeIsIdempotent, LengthRuleOnlySetsLenOk under both rules). -/
theorem witness_decode_completes :
    ∀ c ∈ [LenCheck.corrected, .reference],
      let s := { onBlock 0 76 0 (headed 0 1 0xF6) with params := { defaultParams with lenCheck := c } }
      decodeError s.params s.latch = none ∧ (nextOf (exec .decode s)).isSome = true := by decide +kernel

/-- ENCODE for lw 1 and, on 80 bytes, lw 20; and N = 77 with DECODE_MIN_LEN = 78. -/
theorem witness_EncodeDecodeRoundTrip :
    (nextOf (exec .encode (onBlock 0 76 0 (zeros 0 76)))).isSome = true ∧ (0 + 3) / 4 + 1 ≤ 16 ∧
    (nextOf (exec .encode (onBlock 0 80 76 (zeros 0 80)))).isSome = true ∧ 20 ≤ (76 + 3) / 4 + 1 ∧
    (let s := { onBlock 0 77 0 (zeros 0 77) with params := { defaultParams with decodeMinLen := .len78 } }
     (nextOf (exec .encode s)).isSome = true ∧ s.latch.len.toNat < 78) := by decide +kernel

/-- A block whose sum is right, with the byte at x changed: the ends of the range and of each clause. -/
theorem witness_ChangedHeaderByteIsDetected :
    let s := onBlock 0 76 0 (headed 0 1 0xF6)
    decodeError s.params s.latch = none ∧
    (nextOf (exec .decode s)).map (fun t => (t.dec.sumOk, t.dec.vwOk)) = some (true, true) ∧
    (s.buf.read 64, s.buf.read 67, s.buf.read 68, s.buf.read 69, s.buf.read 72, s.buf.read 73) =
      (some 0x41, some 0x31, some 0, some 0, some 0, some 0) ∧
    ∀ x ∈ [64, 67, 68, 69, 72, 73],
      (nextOf (exec .decode { s with buf := s.buf.write (s.latch.base.toNat + x) 0x80 })).isSome = true := by
  decide +kernel

theorem witness_CommandFrame : ∃ t, exec (.sumb 0xFF) State.reset = .next t := ⟨_, rfl⟩

theorem witness_ErrorsChangeOnlyStatus :
    let s := onBlock 0x3FFFF 2 0 []
    s.status.err = false ∧ (nextOf (exec .sumr s)).map (·.status.err) = some true := by decide +kernel

theorem witness_ErrorCodesPerCommand :
    (busyWith 0x0A []).status.busy = true ∧ (busyWith 0x0A []).agenda = [] ∧
    decode (busyWith 0x0A []).latch.word = .illegal .opcode ∧ (onBlock 0 75 0 []).status.errcode = .none ∧
    (nextOf (exec .encode (onBlock 0 75 0 []))).map (·.status.errcode) = some .short := by decide +kernel

/-- Two buffers that agree on the block and differ on both sides of it. -/
theorem witness_CommandsStayInBlock :
    let s := onBlock 1 2 0 [(0, 0), (1, 7), (2, 8), (3, 0)]
    let m : Memory := [(1, 7), (2, 8), (3, 1)]
    ∀ x, x < 3 → s.latch.base.toNat ≤ x → s.buf.read x = m.read x := by decide +kernel

theorem witness_UnwrittenByteFaults :
    (rangeError defaultParams (onBlock 0 1 0 []).latch = none ∧ 0 < 1 ∧ Memory.read [] 0 = none) ∧
    (let s := onBlock 0 76 4 ((zeros 0 76).erase 3 1)
     encodeError s.params s.latch = none ∧ 3 < s.latch.p ∧ s.buf.read (0 + 3) = none) ∧
    (let s := onBlock 0 76 0 ((zeros 0 76).erase 75 1)
     decodeError s.params s.latch = none ∧ s.buf.read (0 + 75) = none) ∧
    (let s := onBlock 0 76 0 ((headed 0 1 0xF6).erase 3 1)
     decodeError s.params s.latch = none ∧ s.buf.read (0 + 70) = some 1 ∧ s.buf.read (0 + 71) = some 0 ∧
     3 < ((0 : Byte) ++ (1 : Byte) : Half).toNat * 4 ∧ s.buf.read (0 + 3) = none) ∧
    (let s := idleWith [.host (.bufRead 0x3FFFF .byte)]
     s.status.busy = false ∧ 0x3FFFF < s.params.bufCap.toNat ∧ s.buf.read 0x3FFFF = none) := by decide +kernel

theorem witness_OperandWritesDoNotReachCommand :
    (busyWith 5 []).status.busy = true ∧ (busyWith 5 []).rst = false ∧ Reg.payLen ∈ [Reg.blkBase, .blkLen, .payLen] := by
  decide

/-- A read at the first and the last offset, on an idle and on a busy machine. -/
theorem witness_register_reads :
    ∀ off ∈ [(0x00 : BitVec 6), 0x3C],
      (idleWith [.host (.regRead off .word)]).status.busy = false ∧ (busyWith 5 [.host (.regRead off .word)]).status.busy = true ∧
      off.toNat % 4 = 0 := by decide

theorem witness_AccessesWhileBusy :
    (busyWith 5 [.host (.regRead 0x30 .word)]).status.busy = true ∧
    (0x30 : BitVec 6) ∈ [(0x14 : BitVec 6), 0x18, 0x1C, 0x20, 0x24, 0x28, 0x2C, 0x30, 0x34] ∧
    (busyWith 5 [.host (.bufRead 0 .byte)]).agenda = .host (.bufRead 0 .byte) :: [] ∧
    (busyWith 5 [.host (.regWrite 0x10 .word 9)]).rst = false := by decide

theorem witness_RegisterPortRules :
    Width.half ≠ .word ∧ (0x3F : BitVec 6).toNat % 4 ≠ 0 ∧ (0x3C : BitVec 6).toNat % 4 = 0 ∧
    (idleWith [.host (.regWrite 0x3C .word 1)]).agenda = .host (.regWrite 0x3C .word 1) :: [] ∧
    (idleWith [.host (.regWrite 0x08 .word 1)]).rst = false := by decide

theorem witness_BufferPortRules :
    (idleWith []).status.busy = false ∧ LegalBufferAccess 0x40000 0x3FFFF .byte ∧ LegalBufferAccess 0x40000 0x3FFFE .half ∧
    LegalBufferAccess 0x40000 0x3FFFC .word ∧ ¬ LegalBufferAccess 0x40000 0x40000 .byte ∧
    ¬ LegalBufferAccess 0x40000 1 .half ∧ ¬ LegalBufferAccess 0x40000 2 .word ∧ State.reset.buf.read 0x3FFFF = none ∧
    (place 0x3FFFF [5]).read 0x3FFFF ≠ none := by
  unfold LegalBufferAccess
  decide +kernel

theorem witness_BufferPortIsLittleEndian :
    LegalBufferAccess defaultParams.bufCap.toNat 64 .word ∧ (place 64 [1]).Holds 64 [1] ∧ (place 64 [1, 2]).Holds 64 [1, 2] ∧
    (place 64 [1, 2, 3, 4]).Holds 64 [1, 2, 3, 4] ∧ 64 = 0 + 64 ∧
    (idleWith [.host (.bufWrite 64 .word defaultParams.validationWord)]).status.busy = false := by
  unfold LegalBufferAccess Memory.Holds
  decide +kernel

/-- The first and last address of each window of the reset instance, outside the other. -/
theorem witness_BusWindows :
    let p := State.reset.params
    (∀ a ∈ [0, 63], p.regBase ≤ a ∧ a < p.regBase + 64 ∧ ¬ p.bufBase ≤ a) ∧
    ∀ a ∈ [64, 0x4003F], p.bufBase ≤ a ∧ a < p.bufBase + p.bufCap.toNat ∧ ¬ a < p.regBase + 64 := by decide +kernel

theorem witness_SecondHostIsRefused :
    (idleWith [.secondHost (.regRead 0x04 .word)]).agenda = .secondHost (.regRead 0x04 .word) :: [] := by decide

theorem witness_IdleEngineHasNoStep :
    (idleWith []).status.busy = false ∧ (idleWith []).agenda = [] ∧ (idleWith [.engine]).agenda = .engine :: [] := by decide

theorem witness_WaitEndsAfterCompletion :
    (busyWith 5 [.wait]).status.busy = true ∧ (busyWith 5 [.wait]).agenda = .wait :: [] ∧
    ∃ u, engineStep (busyWith 5 [.wait]) = .next u :=
  ⟨rfl, rfl, exists_next (by decide +kernel)⟩

theorem witness_ResetRestoresRegisters :
    (busyWith 7 [.rstAssert]).agenda = .rstAssert :: [] ∧
    (let s := { idleWith [.host (.regWrite 0x00 .word 7)] with rst := true }
     s.rst = true ∧ s.agenda = .host (.regWrite 0x00 .word 7) :: []) := by decide

/-- An ENCODE in flight that would write, one that would not, and another command in flight. -/
theorem witness_ResetKeepsBuffer :
    (let s := { onBlock 0 76 72 (zeros 0 76) with latch := ⟨7, 0, 76, 72⟩, agenda := [.rstAssert] }
     s.status.busy = true ∧ decode s.latch.word = .cmd .encode ∧ encodeError s.params s.latch = none) ∧
    (let s := { onBlock 0 76 73 [] with latch := ⟨7, 0, 76, 73⟩, agenda := [.rstAssert] }
     s.status.busy = true ∧ decode s.latch.word = .cmd .encode ∧ encodeError s.params s.latch ≠ none) ∧
    decode (busyWith 5 [.rstAssert]).latch.word ≠ .cmd .encode := by decide +kernel

/-- A state that meets the invariant, with OVR set, a byte written and a command in flight, and whose step goes on. -/
theorem witness_StepKeepsInvariant :
    let s := { busyWith 9 [] with status := ⟨true, false, false, true, .none⟩, buf := place 0x3FFFF [1] }
    s.Inv ∧ ∃ t, step s = .next t :=
  ⟨{ params := defaultParams_wellFormed
     canonical := by decide +kernel
     bounded := by decide +kernel
     status := ⟨by decide, by decide, by decide⟩
     report := ⟨by decide, by decide, by decide, by decide⟩
     held := fun h => nomatch h }, _, rfl⟩

theorem witness_ParametersNeverChange : ∃ t, step (busyWith 9 []) = .next t := ⟨_, rfl⟩

/-- OVR cleared by CLRST and by reset, and set by a CMD write while BUSY = 1. -/
theorem witness_OverrunIsSticky :
    (let s := { busyWith 9 [] with status := ⟨true, false, false, true, .none⟩ }
     s.status.ovr = true ∧ (nextOf (step s)).map (·.status.ovr) = some false) ∧
    (let s := { idleWith [.rstAssert] with status := ⟨false, true, false, true, .none⟩ }
     s.status.ovr = true ∧ (nextOf (step s)).map (·.status.ovr) = some false) ∧
    (let s := busyWith 9 [.host (.regWrite 0x00 .word 1)]
     s.status.ovr = false ∧ (nextOf (step s)).map (·.status.ovr) = some true) := by decide +kernel

/-- BUSY set by a CMD write, cleared by the ENGINE and by reset. -/
theorem witness_BusyFollowsLifeCycle :
    (let s := idleWith [.host (.regWrite 0x00 .word 0xFFFFFFFF)]
     s.status.busy = false ∧ (nextOf (step s)).map (·.status.busy) = some true) ∧
    (let s := busyWith 9 []
     s.status.busy = true ∧ (nextOf (step s)).map (·.status.busy) = some false) ∧
    (let s := busyWith 9 [.rstAssert]
     s.status.busy = true ∧ (nextOf (step s)).map (·.status.busy) = some false) := by decide +kernel

theorem witness_CanonicalBufferIsItsReads :
    Memory.wf ((place 5 [1, 2]).write 3 7) ∧ Memory.wf [(3, 7), (5, 1), (6, 2)] ∧
    ∀ a, a < 8 → Memory.read ((place 5 [1, 2]).write 3 7) a = Memory.read [(3, 7), (5, 1), (6, 2)] a := by decide +kernel

end Sys2Proof.Tests
end

section
/-! PROOF. Every step keeps the invariant: one lemma per update of the state, one per command, and the turns of `TurnOf`. -/

namespace Sys2Proof.Machine

/-! ## STATUS stays legal -/

theorem Status.Legal.setOvr {t : Status} (h : t.Legal) (b : Bool) : Status.Legal { t with ovr := b } :=
  ⟨h.notBusyDone, h.errIff, h.errDone⟩

theorem Status.Legal.finish {t : Status} (h : t.Legal) : Status.Legal { t with busy := false, done := true } :=
  ⟨by simp, h.errIff, fun _ => rfl⟩

/-- An error is recorded with its code, so the code must not be NONE (60_exceptions R214). -/
theorem Status.legal_fail (t : Status) {code : ErrCode} (hc : code ≠ .none) :
    Status.Legal { t with busy := false, done := true, err := true, errcode := code } :=
  ⟨by simp, by simp [hc], fun _ => rfl⟩

theorem Status.legal_accept (t : Status) :
    Status.Legal { t with busy := true, done := false, err := false, errcode := .none } :=
  ⟨by simp, by simp, by simp⟩

theorem Status.legal_reset : Status.reset.Legal := ⟨by decide, by decide, by decide⟩

/-! ## The report agrees with itself -/

theorem DecReport.agrees_reset (p : Params) : DecReport.reset.Agrees p :=
  ⟨by simp [DecReport.reset], by simp [DecReport.reset], by simp [DecReport.reset], fun _ => rfl⟩

/-- A CRC that is not evaluated leaves 0 as the stored value (41_header_codec R150). -/
theorem readCrcPart_stored_eq_zero {p : Params} {m : Memory} {b n ln : Nat} {c : CrcPart}
    (h : readCrcPart p m b n ln = some c) (hst : c.st = .notEvaluated) : c.stored = 0 := by
  unfold readCrcPart at h
  split_ifs at h with hev
  · split at h
    · cases h
      dsimp only at hst
      split_ifs at hst
    · cases h
  · cases h
    rfl

theorem reportOf_agrees {p : Params} (f : Fields) (sum : Half) {c : CrcPart}
    (hc : c.st = .notEvaluated → c.stored = 0) : (reportOf p f sum c).Agrees p where
  vw := beq_iff_eq.1
  version := beq_iff_eq.1
  length := id
  crc := hc

/-! ## The buffer stays canonical and inside BUF_CAP -/

theorem writeFields_keeps_wf {m : Memory} (vw : Word) (b lw : Nat) (h : m.wf) : (writeFields vw b lw m).wf :=
  Memory.writeLE_keeps_wf _ _ _ <| Memory.writeLE_keeps_wf _ _ _ <| Memory.writeLE_keeps_wf _ _ _ <|
    Memory.writeLE_keeps_wf _ _ _ <| Memory.writeLE_keeps_wf _ _ _ h

theorem writeFields_keeps_below {m : Memory} {bound : Nat} (vw : Word) (b lw : Nat) (hb : b + 74 ≤ bound)
    (h : m.below bound) : (writeFields vw b lw m).below bound :=
  Memory.writeLE_keeps_below _ _ _ (by omega) <| Memory.writeLE_keeps_below _ _ _ (by omega) <|
    Memory.writeLE_keeps_below _ _ _ (by omega) <| Memory.writeLE_keeps_below _ _ _ (by omega) <|
    Memory.writeLE_keeps_below _ _ _ (by omega) h

theorem bufAccessOk_inside {p : Params} {a : Nat} {w : Width} (h : bufAccessOk p a w = true) :
    a + w.bytes ≤ p.bufCap.toNat :=
  of_decide_eq_true (Bool.and_eq_true_iff.1 h).2

/-- A reset only ever takes bytes out of the buffer. -/
theorem State.bufAfterReset_cases (s : State) :
    s.bufAfterReset = s.buf ∨
      s.bufAfterReset = (s.buf.erase (s.latch.b + 64) 12).erase (s.latch.b + s.latch.p) 4 := by
  unfold State.bufAfterReset
  split_ifs
  · exact .inr rfl
  · exact .inl rfl

namespace State.Inv

variable {s t : State}

/-! ## Updates outside the registers -/

/-- The invariant says nothing of the agenda, so taking a turn off it keeps the invariant. -/
theorem setAgenda (hi : s.Inv) (es : List Event) : State.Inv { s with agenda := es } :=
  ⟨hi.params, hi.canonical, hi.bounded, hi.status, hi.report, fun hr => { hi.held hr with }⟩

theorem tail (hi : s.Inv) : s.tail.Inv := hi.setAgenda _

theorem returnRead (hi : s.Inv) (v : Word) : (s.returnRead v).Inv :=
  ⟨hi.params, hi.canonical, hi.bounded, hi.status, hi.report, fun hr => { hi.held hr with }⟩

theorem returnDraw (hi : s.Inv) (mask : Word) : (s.returnDraw mask).Inv :=
  ⟨hi.params, hi.canonical, hi.bounded, hi.status, hi.report, fun hr => { hi.held hr with }⟩

theorem setBuf (hi : s.Inv) {m : Memory} (hwf : m.wf) (hbelow : m.below s.params.bufCap.toNat) : (s.setBuf m).Inv :=
  ⟨hi.params, hwf, hbelow, hi.status, hi.report, fun hr => { hi.held hr with }⟩

theorem regRead (hi : s.Inv) (r : Reg) : (s.regRead r).Inv := by
  obtain h | ⟨mask, -, -, h⟩ := s.regRead_cases r
  · exact h ▸ hi.returnRead _
  · exact h ▸ hi.returnDraw mask

theorem waitRound (hi : s.Inv) : s.waitRound.Inv := by
  unfold State.waitRound
  split_ifs
  · exact (hi.regRead .status).setAgenda _
  · exact hi.regRead .status

/-! ## Reset -/

theorem assertReset (hi : s.Inv) : s.assertReset.Inv where
  params := hi.params
  canonical := by
    obtain h | h := s.bufAfterReset_cases <;> rw [State.assertReset_buf, h]
    · exact hi.canonical
    · exact Memory.erase_keeps_wf _ _ (Memory.erase_keeps_wf _ _ hi.canonical)
  bounded := by
    obtain h | h := s.bufAfterReset_cases <;> rw [State.assertReset_buf, h]
    · exact hi.bounded
    · exact Memory.erase_keeps_below _ _ (Memory.erase_keeps_below _ _ hi.bounded)
  status := Status.legal_reset
  report := DecReport.agrees_reset _
  held _ := ⟨rfl, rfl, rfl, rfl, rfl, rfl, rfl, rfl⟩

/-- With rst deasserted nothing is asked of the registers' values. -/
theorem held_of_deasserted (hr : s.rst = false) : s.rst = true → s.RegistersReset := by
  simp [hr]

theorem deassertReset (hi : s.Inv) : s.deassertReset.Inv :=
  ⟨hi.params, hi.canonical, hi.bounded, hi.status, hi.report, held_of_deasserted rfl⟩

/-- No command is in flight while rst is asserted (70_reset_and_hazards R240). -/
theorem rst_of_busy (hi : s.Inv) (hb : s.status.busy = true) : s.rst = false := by
  by_contra hr
  have hs := (hi.held (by simpa using hr)).status
  simp [hs, Status.reset] at hb

/-! ## Updates of the registers, with rst deasserted -/

theorem complete (hi : s.Inv) (hr : s.rst = false) : s.complete.Inv :=
  ⟨hi.params, hi.canonical, hi.bounded, hi.status.finish, hi.report, held_of_deasserted hr⟩

theorem raiseError (hi : s.Inv) (hr : s.rst = false) {code : ErrCode} (hc : code ≠ .none) : (s.raiseError code).Inv :=
  ⟨hi.params, hi.canonical, hi.bounded, s.status.legal_fail hc, hi.report, held_of_deasserted hr⟩

theorem accept (hi : s.Inv) (hr : s.rst = false) (w : Word) : (s.accept w).Inv :=
  ⟨hi.params, hi.canonical, hi.bounded, s.status.legal_accept, hi.report, held_of_deasserted hr⟩

theorem dropCommand (hi : s.Inv) (hr : s.rst = false) : s.dropCommand.Inv :=
  ⟨hi.params, hi.canonical, hi.bounded, hi.status.setOvr true, hi.report, held_of_deasserted hr⟩

theorem clearOvr (hi : s.Inv) (hr : s.rst = false) : s.clearOvr.Inv :=
  ⟨hi.params, hi.canonical, hi.bounded, hi.status.setOvr false, hi.report, held_of_deasserted hr⟩

theorem setSum (hi : s.Inv) (hr : s.rst = false) (v : Half) : (s.setSum v).Inv :=
  ⟨hi.params, hi.canonical, hi.bounded, hi.status, hi.report, held_of_deasserted hr⟩

theorem setCrc (hi : s.Inv) (hr : s.rst = false) (v : Word) : (s.setCrc v).Inv :=
  ⟨hi.params, hi.canonical, hi.bounded, hi.status, hi.report, held_of_deasserted hr⟩

theorem setEncoded (hi : s.Inv) (hr : s.rst = false) {m : Memory} (hwf : m.wf) (hbelow : m.below s.params.bufCap.toNat)
    (sum : Half) (crc : Word) (lenw : Half) : (s.setEncoded m sum crc lenw).Inv :=
  ⟨hi.params, hwf, hbelow, hi.status, hi.report, held_of_deasserted hr⟩

theorem setDecoded (hi : s.Inv) (hr : s.rst = false) {d : DecReport} (hd : d.Agrees s.params) (sum : Half) (crc : Word) :
    (s.setDecoded d sum crc).Inv :=
  ⟨hi.params, hi.canonical, hi.bounded, hi.status, hd, held_of_deasserted hr⟩

theorem submit (hi : s.Inv) (hr : s.rst = false) (w : Word) : (s.submit w).Inv := by
  unfold State.submit
  split_ifs
  · exact hi.dropCommand hr
  · exact hi.accept hr w

theorem regWrite (hi : s.Inv) (hr : s.rst = false) (r : Reg) (v : Word) : (s.regWrite r v).Inv := by
  cases r with
  | cmd => exact hi.submit hr v
  | blkBase | blkLen | payLen =>
    exact ⟨hi.params, hi.canonical, hi.bounded, hi.status, hi.report, held_of_deasserted hr⟩
  | _ => exact hi

/-! ## The commands -/

/-- Checks that never raise NONE end a command with an error the invariant allows. -/
theorem raiseError_of_check (hi : s.Inv) (hr : s.rst = false) {e : Option ErrCode} {c : ErrCode} (hne : e ≠ some .none)
    (he : e = some c) : (s.raiseError c).Inv :=
  hi.raiseError hr fun hc => hne (hc ▸ he)

theorem of_execSumr (hi : s.Inv) (hr : s.rst = false) (h : execSumr s = .next t) : t.Inv := by
  obtain ⟨c, hc, rfl⟩ | ⟨-, bs, -, rfl⟩ := execSumr_eq_next.1 h
  · exact hi.raiseError_of_check hr rangeError_ne_none hc
  · exact (hi.setSum hr _).complete hr

theorem of_execCrcr (hi : s.Inv) (hr : s.rst = false) (h : execCrcr s = .next t) : t.Inv := by
  obtain ⟨c, hc, rfl⟩ | ⟨-, bs, -, rfl⟩ := execCrcr_eq_next.1 h
  · exact hi.raiseError_of_check hr rangeError_ne_none hc
  · exact (hi.setCrc hr _).complete hr

/-- ENCODE's checks put its whole write set, the header and the CRC field, inside BUF_CAP (41_header_codec R146). -/
theorem of_execEncode (hi : s.Inv) (hr : s.rst = false) (h : execEncode s = .next t) : t.Inv := by
  obtain ⟨c, hc, rfl⟩ | ⟨hok, header, covered, m1, m2, hm1, -, hm2, -, rfl⟩ := execEncode_eq_next.1 h
  · exact hi.raiseError_of_check hr encodeError_ne_none hc
  · obtain ⟨hrange, hshort, -, hover⟩ := (encodeError_eq_none_iff _ _).1 hok
    have hp := s.latch.p_add_four
    have hwf : m2.wf := hm2 ▸ Memory.writeLE_keeps_wf _ _ _ (hm1 ▸ writeFields_keeps_wf _ _ _ hi.canonical)
    have hbelow : m2.below s.params.bufCap.toNat := hm2 ▸ Memory.writeLE_keeps_below _ _ _ (by omega)
      (hm1 ▸ writeFields_keeps_below _ _ _ (by omega) hi.bounded)
    exact (hi.setEncoded hr (Memory.writeLE_keeps_wf _ _ _ hwf)
      (Memory.writeLE_keeps_below _ _ _ (by omega) hbelow) _ _ _).complete hr

theorem of_execDecode (hi : s.Inv) (hr : s.rst = false) (h : execDecode s = .next t) : t.Inv := by
  obtain ⟨c, hc, rfl⟩ | ⟨-, f, header, c, -, -, hcrc, rfl⟩ := execDecode_eq_next.1 h
  · exact hi.raiseError_of_check hr decodeError_ne_none hc
  · exact (hi.setDecoded hr (reportOf_agrees f _ (readCrcPart_stored_eq_zero hcrc)) _ _).complete hr

theorem of_exec (hi : s.Inv) (hr : s.rst = false) {i : Instr} (h : exec i s = .next t) : t.Inv := by
  cases i with
  | nop =>
    cases h
    exact hi.complete hr
  | sumclr | sumb =>
    cases h
    exact (hi.setSum hr _).complete hr
  | crcinit | crcb =>
    cases h
    exact (hi.setCrc hr _).complete hr
  | sumr => exact hi.of_execSumr hr h
  | crcr => exact hi.of_execCrcr hr h
  | encode => exact hi.of_execEncode hr h
  | decode => exact hi.of_execDecode hr h
  | clrst =>
    cases h
    exact (hi.clearOvr hr).complete hr

theorem of_engineStep (hi : s.Inv) (hr : s.rst = false) (h : engineStep s = .next t) : t.Inv := by
  obtain ⟨i, -, he⟩ | ⟨why, -, he⟩ := engineStep_cases s
  · exact hi.of_exec hr (he ▸ h)
  · cases he.symm.trans h
    exact hi.raiseError hr (by decide)

/-! ## The turns -/

theorem of_turn (hi : s.Inv) (h : TurnOf s t) : t.Inv := by
  cases h with
  | engine hb _ he => exact hi.tail.of_engineStep (hi.rst_of_busy hb) he
  | idle _ _ => exact hi.tail
  | regRead r => exact hi.tail.regRead r
  | regIgnored _ => exact hi.tail
  | regWrite r v hr _ => exact hi.tail.regWrite hr r v
  | bufRead v _ => exact hi.tail.returnRead v
  | bufWrite a w v _ ha =>
    exact hi.tail.setBuf (Memory.writeLE_keeps_wf _ _ _ hi.canonical)
      (Memory.writeLE_keeps_below _ _ _ (bufAccessOk_inside ha) hi.bounded)
  | wait => exact hi.tail.waitRound
  | rstAssert _ => exact hi.tail.assertReset
  | rstDeassert => exact hi.tail.deassertReset

end State.Inv

/-- Settles O48: each turn a step can be keeps the invariant, by the case split of `TurnOf`. -/
theorem stepKeepsInvariant : Obligations.StepKeepsInvariant := by
  unfold Obligations.StepKeepsInvariant
  intro s t hi h
  exact hi.of_turn (step_next_cases h)

end Sys2Proof.Machine
end

section
/-! PROOF. The registers' values, and the frame of the commands and of the whole machine: what a command can leave
(`CompletionOf`), what a turn can do to STATUS (`StatusTurn`), and from these what keeps the parameters, OVR and BUSY. -/

namespace Sys2Proof.Machine

/-! ## What a command can leave -/

/-- The states a command can end in. The values it computes are left open; its reads and checks are in `Laws/Ops`. -/
inductive CompletionOf (i : Instr) (s : State) : State → Prop where
  | raised (code : ErrCode) : CompletionOf i s (s.raiseError code)
  | plain (hi : i = .nop) : CompletionOf i s s.complete
  | cleared (hi : i = .clrst) : CompletionOf i s s.clearOvr.complete
  | sum (v : Half) (hi : i = .sumclr ∨ (∃ d, i = .sumb d) ∨ i = .sumr) : CompletionOf i s (s.setSum v).complete
  | crc (v : Word) (hi : i = .crcinit ∨ (∃ d, i = .crcb d) ∨ i = .crcr) : CompletionOf i s (s.setCrc v).complete
  | encoded (m : Memory) (sum : Half) (crc : Word) (lenw : Half) (hi : i = .encode) :
      CompletionOf i s (s.setEncoded m sum crc lenw).complete
  | decoded (d : DecReport) (sum : Half) (crc : Word) (hi : i = .decode) :
      CompletionOf i s (s.setDecoded d sum crc).complete

theorem exec_next_cases {i : Instr} {s t : State} (h : exec i s = .next t) : CompletionOf i s t := by
  cases i with
  | nop =>
    cases h
    exact .plain rfl
  | sumclr =>
    cases h
    exact .sum _ (.inl rfl)
  | sumb d =>
    cases h
    exact .sum _ (.inr (.inl ⟨d, rfl⟩))
  | crcinit =>
    cases h
    exact .crc _ (.inl rfl)
  | crcb d =>
    cases h
    exact .crc _ (.inr (.inl ⟨d, rfl⟩))
  | sumr =>
    obtain ⟨c, -, rfl⟩ | ⟨-, bs, -, rfl⟩ := execSumr_eq_next.1 h
    · exact .raised c
    · exact .sum _ (.inr (.inr rfl))
  | crcr =>
    obtain ⟨c, -, rfl⟩ | ⟨-, bs, -, rfl⟩ := execCrcr_eq_next.1 h
    · exact .raised c
    · exact .crc _ (.inr (.inr rfl))
  | encode =>
    obtain ⟨c, -, rfl⟩ | ⟨-, header, covered, m1, m2, -, -, -, -, rfl⟩ := execEncode_eq_next.1 h
    · exact .raised c
    · exact .encoded _ _ _ _ rfl
  | decode =>
    obtain ⟨c, -, rfl⟩ | ⟨-, f, header, c, -, -, -, rfl⟩ := execDecode_eq_next.1 h
    · exact .raised c
    · exact .decoded _ _ _ rfl
  | clrst =>
    cases h
    exact .cleared rfl

/-- Settles O27: each state a command can end in differs from the one before only in the fields of its own update. -/
theorem commandFrame : Obligations.CommandFrame := by
  unfold Obligations.CommandFrame
  intro i s t h
  cases exec_next_cases h with
  | raised code => exact ⟨rfl, rfl, rfl, by simp⟩
  | plain => exact ⟨rfl, rfl, rfl, by simp⟩
  | cleared hi => exact ⟨rfl, rfl, rfl, by simp [hi]⟩
  | sum v hi => exact ⟨rfl, rfl, rfl, by obtain rfl | ⟨d, rfl⟩ | rfl := hi <;> simp⟩
  | crc v hi => exact ⟨rfl, rfl, rfl, by obtain rfl | ⟨d, rfl⟩ | rfl := hi <;> simp⟩
  | encoded m sum crc lenw hi => exact ⟨rfl, rfl, rfl, by simp [hi]⟩
  | decoded d sum crc hi => exact ⟨rfl, rfl, rfl, by simp [hi]⟩

/-! ## What the ENGINE's step leaves -/

namespace CompletionOf

variable {i : Instr} {s t : State}

theorem params_eq (h : CompletionOf i s t) : t.params = s.params := by cases h <;> rfl

theorem busy_done (h : CompletionOf i s t) : t.status.busy = false ∧ t.status.done = true := by
  cases h <;> exact ⟨rfl, rfl⟩

theorem ovr_cases (h : CompletionOf i s t) :
    t.status.ovr = s.status.ovr ∨ i = .clrst ∧ t.status.ovr = false := by
  cases h with
  | cleared hi => exact .inr ⟨hi, rfl⟩
  | _ => exact .inl rfl

end CompletionOf

/-- An ENGINE step ends as the decoded command can; the word of an illegal form raises an error. -/
theorem engineStep_next_cases {s t : State} (h : engineStep s = .next t) :
    (∃ i, decode s.latch.word = .cmd i ∧ CompletionOf i s t) ∨ t = s.raiseError .illegalCmd := by
  obtain ⟨i, hd, he⟩ | ⟨why, -, he⟩ := engineStep_cases s
  · exact .inl ⟨i, hd, exec_next_cases (he ▸ h)⟩
  · cases he.symm.trans h
    exact .inr rfl

theorem engineStep_params {s t : State} (h : engineStep s = .next t) : t.params = s.params := by
  obtain ⟨i, -, hc⟩ | rfl := engineStep_next_cases h
  · exact hc.params_eq
  · rfl

theorem engineStep_busy_done {s t : State} (h : engineStep s = .next t) :
    t.status.busy = false ∧ t.status.done = true := by
  obtain ⟨i, -, hc⟩ | rfl := engineStep_next_cases h
  · exact hc.busy_done
  · exact ⟨rfl, rfl⟩

theorem engineStep_ovr_cases {s t : State} (h : engineStep s = .next t) :
    t.status.ovr = s.status.ovr ∨ decode s.latch.word = .cmd .clrst ∧ t.status.ovr = false := by
  obtain ⟨i, hd, hc⟩ | rfl := engineStep_next_cases h
  · obtain ho | ⟨rfl, ho⟩ := hc.ovr_cases
    · exact .inl ho
    · exact .inr ⟨hd, ho⟩
  · exact .inl rfl

/-! ## What HOST's accesses leave -/

@[simp] theorem State.tail_params (s : State) : s.tail.params = s.params := rfl

@[simp] theorem State.regRead_params (s : State) (r : Reg) : (s.regRead r).params = s.params := by
  obtain h | ⟨mask, -, -, h⟩ := s.regRead_cases r <;> rw [h] <;> rfl

@[simp] theorem State.regRead_status (s : State) (r : Reg) : (s.regRead r).status = s.status := by
  obtain h | ⟨mask, -, -, h⟩ := s.regRead_cases r <;> rw [h] <;> rfl

/-- WAIT's round is a read of STATUS, with turns put on the agenda. -/
theorem State.waitRound_cases (s : State) : ∃ es, s.waitRound = { s.regRead .status with agenda := es } := by
  unfold State.waitRound
  split_ifs
  · exact ⟨_, rfl⟩
  · exact ⟨_, rfl⟩

@[simp] theorem State.waitRound_params (s : State) : s.waitRound.params = s.params := by
  obtain ⟨es, h⟩ := s.waitRound_cases
  rw [h]
  exact s.regRead_params .status

@[simp] theorem State.waitRound_status (s : State) : s.waitRound.status = s.status := by
  obtain ⟨es, h⟩ := s.waitRound_cases
  rw [h]
  exact s.regRead_status .status

theorem State.submit_of_busy {s : State} (hb : s.status.busy = true) (w : Word) : s.submit w = s.dropCommand := if_pos hb

theorem State.submit_of_idle {s : State} (hb : s.status.busy = false) (w : Word) : s.submit w = s.accept w :=
  if_neg (by simp [hb])

@[simp] theorem State.submit_params (s : State) (w : Word) : (s.submit w).params = s.params := by
  cases hb : s.status.busy with
  | true => rw [s.submit_of_busy hb, State.dropCommand_params]
  | false => rw [s.submit_of_idle hb, State.accept_params]

@[simp] theorem State.regWrite_params (s : State) (r : Reg) (v : Word) : (s.regWrite r v).params = s.params := by
  cases r with
  | cmd => exact s.submit_params v
  | _ => rfl

theorem State.regWrite_status_of_ne_cmd (s : State) {r : Reg} (hr : r ≠ .cmd) (v : Word) :
    (s.regWrite r v).status = s.status := by
  cases r with
  | cmd => exact absurd rfl hr
  | _ => rfl

/-! ## What a turn can do to STATUS -/

/-- What a turn from s to t does to STATUS: nothing, or one of the four events of a command's life cycle
(60_exceptions R212, R213, 70_reset_and_hazards R240). -/
inductive StatusTurn (s t : State) : Prop where
  | kept (h : t.status = s.status)
  | performed (hb : s.status.busy = true) (hn : s.EngineNext) (h : engineStep s.tail = .next t)
  | accepted (w : Word) (hb : s.status.busy = false) (hw : s.CmdWriteNext w) (h : t = s.tail.accept w)
  | dropped (w : Word) (hb : s.status.busy = true) (hw : s.CmdWriteNext w) (h : t = s.tail.dropCommand)
  | reset (hr : ∃ rest, s.agenda = .rstAssert :: rest) (h : t = s.tail.assertReset)

theorem statusTurn_regWrite {s : State} (r : Reg) (v : Word) (hc : r = .cmd → s.CmdWriteNext v) :
    StatusTurn s (s.tail.regWrite r v) := by
  by_cases hr : r = .cmd
  · subst hr
    cases hb : s.status.busy with
    | true => exact .dropped v hb (hc rfl) (s.tail.submit_of_busy hb v)
    | false => exact .accepted v hb (hc rfl) (s.tail.submit_of_idle hb v)
  · exact .kept (s.tail.regWrite_status_of_ne_cmd hr v)

theorem TurnOf.statusTurn {s t : State} (h : TurnOf s t) : StatusTurn s t := by
  cases h with
  | engine hb hn he => exact .performed hb hn he
  | regWrite r v _ hc => exact statusTurn_regWrite r v hc
  | rstAssert hr => exact .reset hr rfl
  | regRead r => exact .kept (s.tail.regRead_status r)
  | wait => exact .kept s.tail.waitRound_status
  | idle | regIgnored | bufRead | bufWrite | rstDeassert => exact .kept rfl

/-! ## The whole machine -/

/-- Settles O49: no turn of `TurnOf` writes the parameters. -/
theorem parametersNeverChange : Obligations.ParametersNeverChange := by
  unfold Obligations.ParametersNeverChange
  intro s t h
  cases step_next_cases h with
  | engine _ _ he => exact (engineStep_params he).trans s.tail_params
  | regRead r => exact s.tail.regRead_params r
  | regWrite r v => exact s.tail.regWrite_params r v
  | wait => exact s.tail.waitRound_params
  | idle | regIgnored | bufRead | bufWrite | rstAssert | rstDeassert => rfl

/-- A flag that a step keeps is neither cleared nor set by it. -/
theorem flag_kept {b c : Bool} {p q : Prop} (h : c = b) :
    (b = true → c = false → p) ∧ (b = false → c = true → q) := by
  cases b <;> simp [h]

/-- Settles O50: of the events that touch STATUS only CLRST and reset clear OVR, and only a drop sets it. -/
theorem overrunIsSticky : Obligations.OverrunIsSticky := by
  unfold Obligations.OverrunIsSticky
  intro s t h
  cases (step_next_cases h).statusTurn with
  | kept hs => exact flag_kept (congrArg Status.ovr hs)
  | performed hb hn he =>
    obtain ho | ⟨hd, ho⟩ := engineStep_ovr_cases he
    · exact flag_kept ho
    · exact ⟨fun _ _ => .inl ⟨hb, hd, hn⟩, fun _ hset => nomatch ho.symm.trans hset⟩
  | accepted w hb hw ht => exact flag_kept (ht ▸ rfl)
  | dropped w hb hw ht => exact ⟨fun _ hclear => by simp [ht] at hclear, fun _ _ => ⟨hb, w, hw⟩⟩
  | reset hr ht => exact ⟨fun _ _ => .inr hr, fun _ hset => by simp [ht, Status.reset] at hset⟩

/-- Settles O51: of the events that touch STATUS only acceptance sets BUSY, and only the ENGINE's step and reset clear it. -/
theorem busyFollowsLifeCycle : Obligations.BusyFollowsLifeCycle := by
  unfold Obligations.BusyFollowsLifeCycle
  intro s t h
  cases (step_next_cases h).statusTurn with
  | kept hs => exact (flag_kept (congrArg Status.busy hs)).symm
  | performed hb hn he =>
    obtain ⟨hbusy, hdone⟩ := engineStep_busy_done he
    exact ⟨fun _ hset => (nomatch hbusy.symm.trans hset), fun _ _ => .inl ⟨hn, hdone⟩⟩
  | accepted w hb hw ht => exact ⟨fun _ _ => ⟨w, hw, ht ▸ rfl⟩, fun h1 => nomatch hb.symm.trans h1⟩
  | dropped w hb hw ht => exact (flag_kept (ht ▸ rfl)).symm
  | reset hr ht => exact ⟨fun _ hset => by simp [ht, Status.reset] at hset, fun _ _ => .inr hr⟩

/-! ## What the registers read as -/

theorem regAt_offset (r : Reg) : regAt r.offset .word = some r := by cases r <;> rfl

theorem State.regRead_of_idle {s : State} (hb : s.status.busy = false) (r : Reg) :
    s.regRead r = s.returnRead (s.regValue r) := by
  obtain h | ⟨mask, hb', -⟩ := s.regRead_cases r
  · exact h
  · simp [hb] at hb'

theorem step_regRead_of_idle {s : State} {rest : List Event} (hb : s.status.busy = false) (r : Reg)
    (ha : s.agenda = .host (.regRead r.offset .word) :: rest) :
    step s = .next { s with agenda := rest, readData := s.regValue r :: s.readData } := by
  have hs : step s = hostRegRead r.offset .word { s with agenda := rest } := by
    unfold step takeTurn
    rw [ha]
    rfl
  rw [hs, hostRegRead_eq_next]
  exact ⟨r, regAt_offset r, (State.regRead_of_idle (s := { s with agenda := rest }) hb r).symm⟩

/-- Settles O34: the register at each offset is found there, and an idle machine reads its value. -/
theorem idleRegistersReadTheirValue : Obligations.IdleRegistersReadTheirValue := by
  unfold Obligations.IdleRegistersReadTheirValue
  intro s rest hb
  have reads := step_regRead_of_idle (rest := rest) hb
  exact ⟨reads .cmd, reads .status, reads .blkBase, reads .blkLen, reads .payLen, reads .sum, reads .crcAcc,
    reads .crcResult, reads .decVw, reads .decHdr, reads .decChk, reads .decCrc, reads .decValid, reads .encLenw,
    reads .bufCap, reads .reserved⟩

/-! ## The layout of STATUS and of the report -/

theorem CrcSt.code_ne_three (c : CrcSt) : c.code ≠ 3 := by cases c <;> decide

theorem Status.word_flags (t : Status) :
    t.word.getLsbD 0 = t.busy ∧ t.word.getLsbD 1 = t.done ∧ t.word.getLsbD 2 = t.err ∧ t.word.getLsbD 3 = t.ovr := by
  simp only [Status.word, BitVec.getLsbD_append]
  simp

theorem Status.word_fields (t : Status) :
    t.word.extractLsb' 4 4 = t.errcode.code ∧ t.word.extractLsb' 8 24 = 0 := by
  simp (disch := decide) only [Status.word, BitVec.extractLsb'_append_eq_of_le, BitVec.extractLsb'_append_eq_of_add_le]
  simp

theorem DecReport.hdrWord_fields (d : DecReport) :
    d.hdrWord.extractLsb' 0 8 = d.version ∧ d.hdrWord.extractLsb' 8 8 = d.flags ∧
      d.hdrWord.extractLsb' 16 16 = d.length := by
  simp (disch := decide) only [DecReport.hdrWord, BitVec.extractLsb'_append_eq_of_le,
    BitVec.extractLsb'_append_eq_of_add_le]
  simp

theorem DecReport.chkWord_fields (d : DecReport) :
    d.chkWord.extractLsb' 0 16 = d.spare ∧ d.chkWord.extractLsb' 16 16 = d.simpleChecksum :=
  ⟨BitVec.extractLsb'_append_eq_right, BitVec.extractLsb'_append_eq_left⟩

theorem DecReport.validWord_flags (d : DecReport) :
    d.validWord.getLsbD 0 = d.vwOk ∧ d.validWord.getLsbD 1 = d.verOk ∧ d.validWord.getLsbD 2 = d.lenOk ∧
      d.validWord.getLsbD 3 = d.sumOk := by
  simp only [DecReport.validWord, BitVec.getLsbD_append]
  simp

theorem DecReport.validWord_fields (d : DecReport) :
    d.validWord.extractLsb' 4 2 = d.crcSt.code ∧ d.validWord.extractLsb' 6 26 = 0 := by
  simp (disch := decide) only [DecReport.validWord, BitVec.extractLsb'_append_eq_of_le,
    BitVec.extractLsb'_append_eq_of_add_le]
  simp

/-- Settles O35: the words are appends of their fields, and CRC_ST's three codes leave out 3. -/
theorem statusAndReportLayout : Obligations.StatusAndReportLayout := by
  unfold Obligations.StatusAndReportLayout
  refine ⟨fun t => ?_, fun d => ?_, fun d => ?_, rfl, rfl, rfl⟩
  · obtain ⟨hbusy, hdone, herr, hovr⟩ := t.word_flags
    exact ⟨hbusy, hdone, herr, hovr, t.word_fields⟩
  · obtain ⟨hversion, hflags, hlength⟩ := d.hdrWord_fields
    exact ⟨hversion, hflags, hlength, d.chkWord_fields⟩
  · obtain ⟨hvw, hver, hlen, hsum⟩ := d.validWord_flags
    obtain ⟨hcrc, hzero⟩ := d.validWord_fields
    exact ⟨hvw, hver, hlen, hsum, hcrc, hcrc ▸ d.crcSt.code_ne_three, hzero⟩

/-! ## Right after power-on -/

/-- Settles O46, register by register. -/
theorem powerOnRegisters : Obligations.PowerOnRegisters := by
  unfold Obligations.PowerOnRegisters
  exact ⟨by decide, rfl, rfl, rfl, rfl⟩

/-- Settles O47: the reset values and the default parameters meet each clause. -/
theorem resetMeetsInvariant : Obligations.ResetMeetsInvariant where
  params := ⟨by decide, fun _ h => nomatch h⟩
  canonical := .nil
  bounded := by simp [State.reset]
  status := Status.legal_reset
  report := DecReport.agrees_reset _
  held := State.Inv.held_of_deasserted rfl

end Sys2Proof.Machine
end

section
/-! PROOF. The buffer seen from both sides: a command reads and writes inside its latched block (20_memory R58), HOST's
accesses at the two ports and on the bus (R51, R54 to R56, R64), and the canonical form of the buffer (R52). -/

namespace Sys2Proof.Machine

/-! ## A command stays inside its latched block -/

/-- The outcomes o of a command from s and o' of it from s with the buffer m: the same fault, or states alike in all but the
buffer, where the bytes of the latched block agree and each buffer keeps its own bytes outside. -/
inductive BlockLocal (s : State) (m : Memory) : Outcome → Outcome → Prop where
  | next (t : State) (mt : Memory)
      (inside : ∀ x, s.latch.b ≤ x ∧ x < s.latch.b + s.latch.n → mt.read x = t.buf.read x)
      (outside : ∀ x, ¬ (s.latch.b ≤ x ∧ x < s.latch.b + s.latch.n) →
        t.buf.read x = s.buf.read x ∧ mt.read x = m.read x) :
      BlockLocal s m (.next t) (.next { t with buf := mt })
  | fault (f : Fault) : BlockLocal s m (.fault f) (.fault f)

namespace BlockLocal

variable {s : State} {m : Memory}

theorem of_withRead {α : Type} {r r' : Option α} {k k' : α → Outcome} (hr : r' = r)
    (hk : ∀ x, BlockLocal s m (k x) (k' x)) : BlockLocal s m (withRead r k) (withRead r' k') := by
  subst hr
  cases r' with
  | none => exact .fault _
  | some x => exact hk x

/-- Two buffers that a successful ENCODE leaves, one from s and one from s with the buffer m. -/
theorem of_setEncoded {mt mt' : Memory} {sum : Half} {crc : Word} {lenw : Half}
    (inside : ∀ x, s.latch.b ≤ x ∧ x < s.latch.b + s.latch.n → mt'.read x = mt.read x)
    (outside : ∀ x, ¬ (s.latch.b ≤ x ∧ x < s.latch.b + s.latch.n) →
      mt.read x = s.buf.read x ∧ mt'.read x = m.read x) :
    BlockLocal s m (.next (s.setEncoded mt sum crc lenw).complete)
      (.next (State.setEncoded { s with buf := m } mt' sum crc lenw).complete) :=
  .next (s.setEncoded mt sum crc lenw).complete mt' inside outside

section Agreeing

variable (hm : ∀ x, s.latch.b ≤ x ∧ x < s.latch.b + s.latch.n → s.buf.read x = m.read x)
include hm

/-- A state that keeps the buffer, and the same state over m. -/
theorem of_kept {t : State} (ht : t.buf = s.buf) : BlockLocal s m (.next t) (.next { t with buf := m }) :=
  .next t m (fun x hx => by rw [ht, hm x hx]) (fun x _ => ⟨by rw [ht], rfl⟩)

theorem of_withChecks {e : Option ErrCode} {body body' : Outcome} (hbody : e = none → BlockLocal s m body body') :
    BlockLocal s m (withChecks e s body) (withChecks e { s with buf := m } body') := by
  cases e with
  | none => exact hbody rfl
  | some code => exact of_kept hm (t := s.raiseError code) rfl

/-- A range of the block gives the same bytes in both buffers. -/
theorem readBytes_eq {a n : Nat} (h1 : s.latch.b ≤ a) (h2 : a + n ≤ s.latch.b + s.latch.n) :
    m.readBytes a n = s.buf.readBytes a n :=
  Memory.readBytes_congr fun x _ _ => (hm x ⟨by omega, by omega⟩).symm

theorem readLE_eq {a n : Nat} (h1 : s.latch.b ≤ a) (h2 : a + n ≤ s.latch.b + s.latch.n) :
    m.readLE a n = s.buf.readLE a n :=
  Memory.readLE_congr fun x _ _ => (hm x ⟨by omega, by omega⟩).symm

theorem of_execSumr : BlockLocal s m (execSumr s) (execSumr { s with buf := m }) :=
  of_withChecks hm fun _ => of_withRead (readBytes_eq hm le_rfl le_rfl) fun bs =>
    of_kept hm (t := (s.setSum (addSum16 bs)).complete) rfl

theorem of_execCrcr : BlockLocal s m (execCrcr s) (execCrcr { s with buf := m }) :=
  of_withChecks hm fun _ => of_withRead (readBytes_eq hm le_rfl le_rfl) fun bs =>
    of_kept hm (t := (s.setCrc (crc32Raw s.params bs)).complete) rfl

theorem withHeader_read_eq {x : Nat} (hx : s.latch.b ≤ x ∧ x < s.latch.b + s.latch.n) :
    (State.withHeader { s with buf := m }).read x = s.withHeader.read x := by
  rw [State.read_withHeader, State.read_withHeader, hm x hx]

/-- ENCODE's checks put its header and its CRC field inside the block (41_header_codec R145, R146). -/
theorem of_execEncode : BlockLocal s m (execEncode s) (execEncode { s with buf := m }) := by
  refine of_withChecks hm fun hok => ?_
  obtain ⟨-, hshort, -, hover⟩ := (encodeError_eq_none_iff _ _).1 hok
  have hp := s.latch.p_add_four
  have hcovered : (State.withHeader { s with buf := m }).readBytes s.latch.b s.latch.p =
      s.withHeader.readBytes s.latch.b s.latch.p :=
    Memory.readBytes_congr fun x h1 h2 => withHeader_read_eq hm ⟨h1, by omega⟩
  rw [encodeBlock_eq, encodeBlock_eq]
  refine of_withRead hcovered fun covered => ?_
  refine of_setEncoded (fun x hx => ?_) (fun x hx => ?_)
  · simp only [Memory.read_writeLE, withHeader_read_eq hm hx]
  · have hcrc : ¬ (s.latch.b + s.latch.p ≤ x ∧ x < s.latch.b + s.latch.p + 4) := by omega
    have hheader : ¬ (s.latch.b + 64 ≤ x ∧ x < s.latch.b + 76) := by omega
    simp only [Memory.read_writeLE, State.read_withHeader, if_neg hcrc,
      if_neg hheader, and_self]

theorem readFields_eq (hn : 76 ≤ s.latch.n) : readFields m s.latch.b = readFields s.buf s.latch.b := by
  unfold readFields
  simp (disch := omega) only [readLE_eq hm]

theorem readCrcPart_eq (p : Params) (ln : Nat) :
    readCrcPart p m s.latch.b s.latch.n ln = readCrcPart p s.buf s.latch.b s.latch.n ln := by
  unfold readCrcPart
  split_ifs with hev
  · rw [readLE_eq hm (by omega) (by omega), readBytes_eq hm (by omega) (by omega)]
  · rfl

theorem of_execDecode : BlockLocal s m (execDecode s) (execDecode { s with buf := m }) := by
  refine of_withChecks hm fun hok => ?_
  have hn : 76 ≤ s.latch.n := (decodeMinBytes_ge _).trans ((decodeError_eq_none_iff _ _).1 hok).2
  have hheader : m.readBytes (s.latch.b + 64) 10 = s.buf.readBytes (s.latch.b + 64) 10 :=
    readBytes_eq hm (by omega) (by omega)
  exact of_withRead (readFields_eq hm hn) fun f =>
    of_withRead hheader fun header =>
      of_withRead (readCrcPart_eq hm _ _) fun c =>
        of_kept hm (t := (s.setDecoded (reportOf s.params f (addSum16 header) c) (addSum16 header) c.acc).complete) rfl

theorem of_exec (i : Instr) : BlockLocal s m (exec i s) (exec i { s with buf := m }) := by
  cases i with
  | nop => exact of_kept hm (t := s.complete) rfl
  | sumclr => exact of_kept hm (t := (s.setSum 0).complete) rfl
  | sumb d => exact of_kept hm (t := (s.setSum (sumStep s.sumAcc d)).complete) rfl
  | crcinit => exact of_kept hm (t := (s.setCrc crcOnes).complete) rfl
  | crcb d => exact of_kept hm (t := (s.setCrc (crcStep s.params s.crcAcc d)).complete) rfl
  | sumr => exact of_execSumr hm
  | crcr => exact of_execCrcr hm
  | encode => exact of_execEncode hm
  | decode => exact of_execDecode hm
  | clrst => exact of_kept hm (t := s.clearOvr.complete) rfl

end Agreeing

end BlockLocal

/-- Settles O30: the two outcomes of a command are `BlockLocal`, command by command. -/
theorem commandsStayInBlock : Obligations.CommandsStayInBlock := by
  unfold Obligations.CommandsStayInBlock
  intro i s m inBlock hm
  have h : BlockLocal s m (exec i s) (exec i { s with buf := m }) := BlockLocal.of_exec hm i
  generalize exec i s = o, exec i { s with buf := m } = o' at h
  cases h with
  | next t mt inside outside => exact ⟨rfl, inside, outside⟩
  | fault f => rfl

/-! ## The turn that is next -/

theorem step_of_agenda {s : State} {e : Event} {rest : List Event} (h : s.agenda = e :: rest) :
    step s = perform e { s with agenda := rest } := by
  unfold step takeTurn
  rw [h]

theorem step_agenda_cons (s : State) (e : Event) (rest : List Event) :
    step { s with agenda := e :: rest } = perform e { s with agenda := rest } := rfl

/-! ## The register port -/

/-- Every offset that is a multiple of 4 has its register (10_state R21). -/
theorem Reg.exists_of_aligned : ∀ off : BitVec 6, off.toNat % 4 = 0 → ∃ r ∈ allRegs, r.offset = off := by decide

theorem Reg.offset_aligned (r : Reg) : r.offset.toNat % 4 = 0 := by cases r <;> rfl

theorem regAt_eq_none {off : BitVec 6} {w : Width} (h : w ≠ .word ∨ off.toNat % 4 ≠ 0) : regAt off w = none := by
  cases w with
  | byte | half => rfl
  | word =>
    have hoff : off.toNat % 4 ≠ 0 := h.resolve_left (fun hw => hw rfl)
    exact List.find?_eq_none.2 fun r _ hr => hoff (beq_iff_eq.1 hr ▸ r.offset_aligned)

section RegisterTurn

variable {s : State} {rest : List Event}

theorem step_regRead_refused {off : BitVec 6} {w : Width} (h : regAt off w = none)
    (ha : s.agenda = .host (.regRead off w) :: rest) : step s = .refused .registerAccess := by
  rw [step_of_agenda ha]
  simp [perform, hostAccess, hostRegRead, h]

theorem step_regWrite_refused {off : BitVec 6} {w : Width} {v : Word} (h : regAt off w = none)
    (ha : s.agenda = .host (.regWrite off w v) :: rest) : step s = .refused .registerAccess := by
  rw [step_of_agenda ha]
  simp [perform, hostAccess, hostRegWrite, h]

theorem step_regRead (r : Reg) (ha : s.agenda = .host (.regRead r.offset .word) :: rest) :
    step s = .next (State.regRead { s with agenda := rest } r) :=
  (step_of_agenda ha).trans (hostRegRead_eq_next.2 ⟨r, regAt_offset r, rfl⟩)

theorem step_regWrite (r : Reg) {v : Word} (ha : s.agenda = .host (.regWrite r.offset .word v) :: rest) :
    step s = .next (if s.rst then { s with agenda := rest } else State.regWrite { s with agenda := rest } r v) :=
  (step_of_agenda ha).trans (hostRegWrite_eq_next.2 ⟨r, regAt_offset r, rfl⟩)

/-- A register that reads exactly at all times does so also while BUSY = 1 (20_memory R64). -/
theorem State.regRead_of_exact (s : State) {r : Reg} (hr : r.drawMask = none) :
    s.regRead r = s.returnRead (s.regValue r) := by
  obtain h | ⟨mask, -, hmask, -⟩ := s.regRead_cases r
  · exact h
  · cases hr.symm.trans hmask

theorem step_regRead_of_exact {r : Reg} (hr : r.drawMask = none)
    (ha : s.agenda = .host (.regRead r.offset .word) :: rest) :
    step s = .next { s with agenda := rest, readData := s.regValue r :: s.readData } :=
  (step_regRead r ha).trans (congrArg _ (State.regRead_of_exact _ hr))

theorem State.regRead_of_draw {s : State} (hb : s.status.busy = true) {r : Reg} {mask : Word}
    (hr : r.drawMask = some mask) : s.regRead r = s.returnDraw mask := by
  unfold State.regRead
  rw [hb, hr]

theorem step_regRead_of_draw (hb : s.status.busy = true) {r : Reg} {mask : Word} (hr : r.drawMask = some mask)
    (ha : s.agenda = .host (.regRead r.offset .word) :: rest) :
    step s = .next
      { s with agenda := rest, readData := (Config.draw s.draws &&& mask) :: s.readData, draws := s.draws + 1 } :=
  (step_regRead r ha).trans (congrArg _ (State.regRead_of_draw (s := { s with agenda := rest }) hb hr))

/-- A write to a register HOST cannot write is ignored (20_memory R55), whether or not rst is asserted. -/
theorem step_regWrite_of_readOnly {r : Reg} (hr : r ∉ [Reg.cmd, .blkBase, .blkLen, .payLen]) {v : Word}
    (ha : s.agenda = .host (.regWrite r.offset .word v) :: rest) : step s = .next { s with agenda := rest } := by
  have hkept : State.regWrite { s with agenda := rest } r v = { s with agenda := rest } := by
    cases r with
    | cmd | blkBase | blkLen | payLen => simp at hr
    | _ => rfl
  rw [step_regWrite r ha, hkept, ite_self]

theorem step_regWrite_of_deasserted (hrst : s.rst = false) (r : Reg) {v : Word}
    (ha : s.agenda = .host (.regWrite r.offset .word v) :: rest) :
    step s = .next (State.regWrite { s with agenda := rest } r v) := by
  rw [step_regWrite r ha, hrst]
  rfl

/-- With rst deasserted a write of an operand register stores the value and does nothing else (20_memory R55, R64). -/
theorem operandWrites_store (hrst : s.rst = false) (v : Word) :
    (s.agenda = .host (.regWrite 0x08 .word v) :: rest → step s = .next { s with agenda := rest, blkBase := v }) ∧
    (s.agenda = .host (.regWrite 0x0C .word v) :: rest → step s = .next { s with agenda := rest, blkLen := v }) ∧
    (s.agenda = .host (.regWrite 0x10 .word v) :: rest → step s = .next { s with agenda := rest, payLen := v }) :=
  ⟨step_regWrite_of_deasserted hrst .blkBase, step_regWrite_of_deasserted hrst .blkLen,
    step_regWrite_of_deasserted hrst .payLen⟩

end RegisterTurn

theorem readOnly_of_offset :
    ∀ off ∈ [(0x04 : BitVec 6), 0x14, 0x18, 0x1C, 0x20, 0x24, 0x28, 0x2C, 0x30, 0x34, 0x38, 0x3C],
    ∃ r ∈ allRegs, r.offset = off ∧ r ∉ [Reg.cmd, .blkBase, .blkLen, .payLen] := by decide

/-- Settles O37: a refused access finds no register at its offset, and every other one finds the register its clause
speaks of. -/
theorem registerPortRules : Obligations.RegisterPortRules := by
  unfold Obligations.RegisterPortRules
  intro s off w v rest
  refine ⟨fun h => ?_, fun hoff ha => ?_, ?_, fun hoff ha => ?_, fun hrst => operandWrites_store hrst v⟩
  · exact ⟨step_regRead_refused (regAt_eq_none h), step_regWrite_refused (regAt_eq_none h)⟩
  · obtain ⟨r, -, rfl, hr⟩ := readOnly_of_offset off hoff
    exact step_regWrite_of_readOnly hr ha
  · rintro (rfl | rfl) ha
    · exact step_regRead_of_exact (r := .cmd) rfl ha
    · exact step_regRead_of_exact (r := .reserved) rfl ha
  · obtain ⟨r, -, rfl⟩ := Reg.exists_of_aligned off hoff
    rw [step_regRead r ha]
    obtain h | ⟨mask, -, -, h⟩ := State.regRead_cases { s with agenda := rest } r <;>
      exact ⟨_, _, congrArg _ h⟩

/-! ## The buffer host port -/

theorem bufAccessOk_iff (p : Params) (a : Nat) (w : Width) :
    bufAccessOk p a w = true ↔ LegalBufferAccess p.bufCap.toNat a w := by
  rw [bufAccessOk, Bool.and_eq_true, beq_iff_eq, decide_eq_true_iff]
  cases w with
  | byte => simp [LegalBufferAccess, Width.bytes, Nat.mod_one]
  | half | word => rfl

section BufferTurn

variable {s : State} {a : Nat} {w : Width} {v : Word} {rest : List Event}

theorem step_bufRead_of_busy (hb : s.status.busy = true) (ha : s.agenda = .host (.bufRead a w) :: rest) :
    step s = .fault .bufferWhileBusy :=
  (step_of_agenda ha).trans (if_pos hb)

theorem step_bufWrite_of_busy (hb : s.status.busy = true) (ha : s.agenda = .host (.bufWrite a w v) :: rest) :
    step s = .fault .bufferWhileBusy :=
  (step_of_agenda ha).trans (if_pos hb)

/-- What a buffer read does on an idle machine. -/
theorem step_bufRead_of_idle (hb : s.status.busy = false) (ha : s.agenda = .host (.bufRead a w) :: rest) :
    step s =
      if bufAccessOk s.params a w then
        withRead (s.buf.readLE a w.bytes) fun x =>
          .next { s with agenda := rest, readData := BitVec.ofNat 32 x :: s.readData }
      else .refused .bufferAccess :=
  (step_of_agenda ha).trans (if_neg (by simp [hb]))

/-- What a buffer write does on an idle machine. -/
theorem step_bufWrite_of_idle (hb : s.status.busy = false) (ha : s.agenda = .host (.bufWrite a w v) :: rest) :
    step s =
      if bufAccessOk s.params a w then .next { s with agenda := rest, buf := s.buf.writeLE a w.bytes v.toNat }
      else .refused .bufferAccess :=
  (step_of_agenda ha).trans (if_neg (by simp [hb]))

theorem step_bufRead_of_legal (hb : s.status.busy = false) (hl : LegalBufferAccess s.params.bufCap.toNat a w)
    (ha : s.agenda = .host (.bufRead a w) :: rest) :
    step s = withRead (s.buf.readLE a w.bytes) fun x =>
      .next { s with agenda := rest, readData := BitVec.ofNat 32 x :: s.readData } :=
  (step_bufRead_of_idle hb ha).trans (if_pos ((bufAccessOk_iff _ _ _).2 hl))

theorem step_bufWrite_of_legal (hb : s.status.busy = false) (hl : LegalBufferAccess s.params.bufCap.toNat a w)
    (ha : s.agenda = .host (.bufWrite a w v) :: rest) :
    step s = .next { s with agenda := rest, buf := s.buf.writeLE a w.bytes v.toNat } :=
  (step_bufWrite_of_idle hb ha).trans (if_pos ((bufAccessOk_iff _ _ _).2 hl))

end BufferTurn

/-- Settles O38: the check of the port is `LegalBufferAccess`, and a legal read faults where a byte is unwritten. -/
theorem bufferPortRules : Obligations.BufferPortRules := by
  unfold Obligations.BufferPortRules
  intro s a w v rest hb
  refine ⟨fun hl => ?_, fun hl => ⟨fun ha => ⟨_, step_bufWrite_of_legal hb hl ha, rfl⟩, fun ha => ?_⟩⟩
  · have hno : ¬ bufAccessOk s.params a w = true := fun h => hl ((bufAccessOk_iff _ _ _).1 h)
    exact ⟨fun ha => (step_bufRead_of_idle hb ha).trans (if_neg hno),
      fun ha => (step_bufWrite_of_idle hb ha).trans (if_neg hno)⟩
  · rw [step_bufRead_of_legal hb hl ha]
    refine ⟨fun hall => ?_, fun hunwritten => ?_⟩
    · cases hread : s.buf.readLE a w.bytes with
      | none =>
        obtain ⟨x, h1, h2, hx⟩ := (Memory.readLE_eq_none_iff _ _ _).1 hread
        exact absurd hx (hall x h1 h2)
      | some x => exact ⟨_, rfl⟩
    · rw [(Memory.readLE_eq_none_iff _ _ _).2 hunwritten, withRead_none]

/-! ### Little-endian -/

theorem Memory.Holds.readLE {m : Memory} {a : Nat} {bs : List Byte} (h : m.Holds a bs) :
    m.readLE a bs.length = some (leValue bs) := by
  rw [Memory.readLE_eq, (m.readBytes_eq_some_iff a _ bs).2 ⟨rfl, h⟩, Option.map_some]

/-- A legal read of the bytes bs returns the number they stand for, with zeros above (log entry 15). -/
theorem step_bufRead_of_holds {s : State} {a : Nat} {w : Width} {rest : List Event} {bs : List Byte}
    (hb : s.status.busy = false) (hl : LegalBufferAccess s.params.bufCap.toNat a w)
    (ha : s.agenda = .host (.bufRead a w) :: rest) (hw : w.bytes = bs.length) (hbs : s.buf.Holds a bs) :
    step s = .next { s with agenda := rest, readData := BitVec.ofNat 32 (leValue bs) :: s.readData } := by
  rw [step_bufRead_of_legal hb hl ha, hw, hbs.readLE, withRead_some]

theorem toNat_append_eq_add {n k : Nat} (x : BitVec n) (y : BitVec k) : (x ++ y).toNat = y.toNat + 2 ^ k * x.toNat := by
  rw [BitVec.toNat_append, Nat.shiftLeft_eq, Nat.mul_comm, Nat.add_comm, ← Nat.two_pow_add_eq_or_of_lt y.isLt]

theorem leValue_one (b0 : Byte) : BitVec.ofNat 32 (leValue [b0]) = b0.setWidth 32 := by
  apply BitVec.eq_of_toNat_eq
  simp [leValue]

theorem leValue_two (b0 b1 : Byte) : BitVec.ofNat 32 (leValue [b0, b1]) = (b1 ++ b0 : Half).setWidth 32 := by
  apply BitVec.eq_of_toNat_eq
  rw [BitVec.toNat_setWidth, toNat_append_eq_add b1 b0]
  simp [leValue]

theorem leValue_four (b0 b1 b2 b3 : Byte) :
    BitVec.ofNat 32 (leValue [b0, b1, b2, b3]) = (b3 ++ b2 ++ b1 ++ b0 : Word) := by
  apply BitVec.eq_of_toNat_eq
  rw [toNat_append_eq_add (b3 ++ b2 ++ b1) b0, toNat_append_eq_add (b3 ++ b2) b1, toNat_append_eq_add b3 b2]
  simp only [leValue, BitVec.toNat_ofNat]
  omega

/-- The validation word is the first four bytes of the header, whatever length and sum stand in it. -/
theorem headerByte_validationWord (vw : Word) (lw : Nat) (sum : Half) {k : Nat} (hk : k < 4) :
    headerByte vw lw sum (64 + k) = vw.extractLsb' (8 * k) 8 := by
  interval_cases k <;> rfl

/-- Settles O39: a written byte is a digit of the value, and the bytes read are the digits of the value returned. -/
theorem bufferPortIsLittleEndian : Obligations.BufferPortIsLittleEndian := by
  unfold Obligations.BufferPortIsLittleEndian
  intro s a w rest hb hl
  refine ⟨fun v ha => ⟨_, step_bufWrite_of_legal hb hl ha, fun x => ?_⟩, fun b0 b1 b2 b3 ha => ⟨?_, ?_, ?_⟩,
    fun b x hw hab h64 h68 ha => ⟨_, step_bufWrite_of_legal hb hl ha, fun lw sum => ?_⟩⟩
  · rw [Memory.read_writeLE, byte_of_div]
  · rintro rfl hbs
    rw [step_bufRead_of_holds hb hl ha rfl hbs, leValue_one]
  · rintro rfl hbs
    rw [step_bufRead_of_holds hb hl ha rfl hbs, leValue_two]
  · rintro rfl hbs
    rw [step_bufRead_of_holds hb hl ha rfl hbs, leValue_four]
  · obtain ⟨k, rfl⟩ : ∃ k, x = 64 + k := ⟨x - 64, by omega⟩
    subst hw hab
    rw [Memory.read_writeLE, if_pos (by simp only [Width.bytes]; omega), byte_of_div,
      headerByte_validationWord _ _ _ (by omega), show b + (64 + k) - (b + 64) = k by omega]

/-! ## While a command is in flight -/

/-- The result registers, each with the bits a draw can set (20_memory R64). -/
theorem drawn_of_offset : ∀ off ∈ [(0x14 : BitVec 6), 0x18, 0x1C, 0x20, 0x24, 0x28, 0x2C, 0x30, 0x34],
    ∃ r ∈ allRegs, r.offset = off ∧ r.drawMask.isSome ∧
      (off = 0x14 ∨ off = 0x34 → r.drawMask = some 0x0000FFFF) ∧ (off = 0x30 → r.drawMask = some 0x0000003F) := by
  decide

theorem extractLsb'_and_of_zero {v mask : Word} {k n : Nat} (h : mask.extractLsb' k n = 0) :
    (v &&& mask).extractLsb' k n = 0 := by
  rw [BitVec.extractLsb'_and, h]
  exact BitVec.and_zero

/-- Settles O36: each offset's register reads exactly or as a draw, and the buffer port's first check is BUSY. -/
theorem accessesWhileBusy : Obligations.AccessesWhileBusy := by
  unfold Obligations.AccessesWhileBusy
  intro s rest hb
  refine ⟨step_regRead_of_exact (r := .status) rfl, step_regRead_of_exact (r := .blkBase) rfl,
    step_regRead_of_exact (r := .blkLen) rfl, step_regRead_of_exact (r := .payLen) rfl,
    step_regRead_of_exact (r := .bufCap) rfl, fun off hoff ha => ?_, operandWrites_store,
    fun a w => ⟨step_bufRead_of_busy hb, fun v => step_bufWrite_of_busy hb⟩⟩
  obtain ⟨r, -, rfl, hdrawn, hhalf, hvalid⟩ := drawn_of_offset off hoff
  obtain ⟨mask, hmask⟩ := Option.isSome_iff_exists.1 hdrawn
  refine ⟨_, step_regRead_of_draw hb hmask ha, fun h => ?_, fun h => ?_⟩
  · cases hmask.symm.trans (hhalf h)
    exact extractLsb'_and_of_zero rfl
  · cases hmask.symm.trans (hvalid h)
    exact extractLsb'_and_of_zero rfl

/-! ## The bus -/

theorem busTarget_of_reg {p : Params} {addr : Nat} (hreg : p.regBase ≤ addr ∧ addr < p.regBase + 64)
    (hbuf : ¬ (p.bufBase ≤ addr ∧ addr < p.bufBase + p.bufCap.toNat)) :
    busTarget p addr = .reg (BitVec.ofNat 6 (addr - p.regBase)) := by
  unfold busTarget
  rw [decide_eq_true hreg, decide_eq_false hbuf]

theorem busTarget_of_buf {p : Params} {addr : Nat} (hreg : ¬ (p.regBase ≤ addr ∧ addr < p.regBase + 64))
    (hbuf : p.bufBase ≤ addr ∧ addr < p.bufBase + p.bufCap.toNat) : busTarget p addr = .buf (addr - p.bufBase) := by
  unfold busTarget
  rw [decide_eq_false hreg, decide_eq_true hbuf]

/-- Settles O40: the bus gives an address in one window to that window's port. -/
theorem busWindows : Obligations.BusWindows := by
  unfold Obligations.BusWindows
  intro s addr w v rest inReg inBuf
  refine ⟨fun hreg hbuf => ?_, fun hbuf hreg => ?_⟩
  · have htarget := busTarget_of_reg hreg hbuf
    simp only [step_agenda_cons, perform, busAccess, hostAccess, htarget, and_self]
  · have htarget := busTarget_of_buf hreg hbuf
    simp only [step_agenda_cons, perform, busAccess, hostAccess, htarget, and_self]

/-! ## The canonical form -/

/-- Settles O52: in the canonical form the cells are the bytes read, and rising offsets fix their order. -/
theorem canonicalBufferIsItsReads : Obligations.CanonicalBufferIsItsReads := by
  unfold Obligations.CanonicalBufferIsItsReads
  intro m m' hwf hwf' hread
  refine List.Pairwise.eq_of_mem_iff hwf hwf' fun c => ?_
  rw [← Memory.read_eq_some_iff hwf, hread, Memory.read_eq_some_iff hwf']

end Sys2Proof.Machine
end

section
/-! PROOF. Command words: a word is a command's exactly when its four fields are the command's, and decoding finds those
fields. The rows of the opcode map and the illegal forms follow from that. -/

namespace Sys2Proof

/-! ## The fields of a command's word -/

/-- OP of a command (30_encoding R82). -/
def Instr.opcode : Instr → BitVec 4
  | .nop => 0
  | .sumclr => 1
  | .sumb _ => 2
  | .crcinit => 3
  | .crcb _ => 4
  | .sumr => 5
  | .crcr => 6
  | .encode => 7
  | .decode => 8
  | .clrst => 9

/-- A command's word has OP in its low bits, DATA8 from bit 8 on, and nothing else. -/
theorem encode_toNat (i : Instr) : (encode i).toNat = 2 ^ 8 * i.data8.toNat + i.opcode.toNat := by
  cases i with
  | sumb d | crcb d =>
    have hd := d.isLt
    rw [Nat.two_pow_add_eq_or_of_lt (i := 8) (by simp [Instr.opcode]), Nat.lor_comm]
    simp only [encode, Instr.row, Instr.data8, Instr.opcode, BitVec.toNat_or, BitVec.toNat_shiftLeft, BitVec.toNat_setWidth,
      Nat.shiftLeft_eq]
    congr 1
    omega
  | _ => rfl

theorem encode_eq_iff_fields {w : Word} {i : Instr} :
    encode i = w ↔ w.extractLsb' 16 16 = 0 ∧ w.extractLsb' 4 4 = 0 ∧ w.extractLsb' 0 4 = i.opcode ∧
      w.extractLsb' 8 8 = i.data8 := by
  have hop := i.opcode.isLt
  have hdata8 := i.data8.isLt
  simp only [← BitVec.toNat_inj, encode_toNat, BitVec.extractLsb'_toNat, Nat.shiftRight_eq_div_pow,
    BitVec.ofNat_eq_ofNat, BitVec.toNat_ofNat]
  omega

theorem opcode_data8_of_decodePlain {i j : Instr} {d : Byte} {op : BitVec 4} (h : decodePlain j d = .cmd i)
    (hj : j.data8 = 0) (hop : op.toNat = j.opcode.toNat) : op = i.opcode ∧ d = i.data8 := by
  obtain ⟨rfl, rfl⟩ := decodePlain_eq_cmd.1 h
  exact ⟨BitVec.eq_of_toNat_eq hop, hj.symm⟩

theorem decodeFields_eq_cmd {rsv1 : Half} {data8 : Byte} {rsv0 op : BitVec 4} {i : Instr} :
    decodeFields rsv1 data8 rsv0 op = .cmd i ↔ rsv1 = 0 ∧ rsv0 = 0 ∧ op = i.opcode ∧ data8 = i.data8 := by
  constructor
  · intro h
    unfold decodeFields at h
    split_ifs at h with hrsv1 hrsv0
    refine ⟨not_not.1 hrsv1, not_not.1 hrsv0, ?_⟩
    split at h
    case h_1 hop | h_2 hop | h_4 hop | h_6 hop | h_7 hop | h_8 hop | h_9 hop | h_10 hop =>
      exact opcode_data8_of_decodePlain h rfl hop
    case h_3 hop | h_5 hop =>
      cases h
      exact ⟨BitVec.eq_of_toNat_eq hop, rfl⟩
    case h_11 => cases h
  · rintro ⟨rfl, rfl, rfl, rfl⟩
    cases i <;> rfl

/-! ## Decoding inverts encoding -/

theorem decode_eq_cmd_iff {w : Word} {i : Instr} : decode w = .cmd i ↔ encode i = w :=
  decodeFields_eq_cmd.trans encode_eq_iff_fields.symm

@[simp] theorem decode_encode (i : Instr) : decode (encode i) = .cmd i := decode_eq_cmd_iff.2 rfl

/-- Settles O1: the fields that decoding looks for are those of the command's word, and they fix the word. -/
theorem decodeInvertsEncode : Obligations.DecodeInvertsEncode := by
  unfold Obligations.DecodeInvertsEncode
  exact ⟨decode_encode, fun _ _ => decode_eq_cmd_iff.1⟩

/-- Decode is total: a word that is no command's is illegal (30_encoding R83). -/
theorem decode_illegal_iff {w : Word} : (∃ why, decode w = .illegal why) ↔ ¬ ∃ i, decode w = .cmd i := by
  cases decode w with
  | cmd i => simp
  | illegal why => simp

/-! ## The opcode map -/

theorem mem_opcodeMap_iff {r : OpcodeRow} : r ∈ opcodeMap ↔ ∃ i : Instr, i.row = r := by
  constructor
  · intro h
    simp only [opcodeMap, List.mem_cons, List.not_mem_nil, or_false] at h
    obtain rfl | rfl | rfl | rfl | rfl | rfl | rfl | rfl | rfl | rfl := h <;> exact ⟨_, rfl⟩
  · rintro ⟨i, rfl⟩
    cases i <;> simp [opcodeMap, Instr.row]

/-- The word of a command is selected by the command's row. -/
theorem encode_and_mask (i : Instr) : encode i &&& i.row.mask = i.row.pattern := by
  apply eq_of_beq
  cases i with
  | nop => exact Laws.RowSelectsWord.nop
  | sumclr => exact Laws.RowSelectsWord.sumclr
  | sumb d => exact Laws.RowSelectsWord.sumb d
  | crcinit => exact Laws.RowSelectsWord.crcinit
  | crcb d => exact Laws.RowSelectsWord.crcb d
  | sumr => exact Laws.RowSelectsWord.sumr
  | crcr => exact Laws.RowSelectsWord.crcr
  | encode => exact Laws.RowSelectsWord.encode
  | decode => exact Laws.RowSelectsWord.decode
  | clrst => exact Laws.RowSelectsWord.clrst

theorem operandMask_getLsbD :
    ∀ k < 32, (0xFFFF00FF#32).getLsbD k = (decide (k < 8) || decide (16 ≤ k)) := by decide

/-- The mask of the rows with an operand leaves out DATA8 and nothing else. -/
theorem and_operandMask_or_data8 (w : Word) :
    w &&& 0xFFFF00FF#32 ||| (w.extractLsb' 8 8).setWidth 32 <<< 8 = w := by
  apply BitVec.eq_of_getLsbD_eq
  intro k hk
  simp only [BitVec.getLsbD_or, BitVec.getLsbD_and, BitVec.getLsbD_shiftLeft, BitVec.getLsbD_setWidth,
    BitVec.getLsbD_extractLsb', operandMask_getLsbD k hk]
  by_cases h8 : k < 8
  · simp [h8]
  by_cases h16 : k < 16
  · simp [h8, hk, show ¬ 16 ≤ k by omega, show k - 8 < 32 by omega, show k - 8 < 8 by omega,
      show 8 + (k - 8) = k by omega]
  · simp [h8, hk, show 16 ≤ k by omega, show ¬ k - 8 < 8 by omega]

/-- A word that a row selects is the word of a command of that row: the row fixes every bit, or every bit but DATA8. -/
theorem exists_encode_of_selected {w : Word} {i : Instr} (h : w &&& i.row.mask = i.row.pattern) :
    ∃ j : Instr, j.row = i.row ∧ encode j = w := by
  have hoperand : i.row.mask = 0xFFFF00FF#32 → i.row.pattern ||| (w.extractLsb' 8 8).setWidth 32 <<< 8 = w := by
    intro hmask
    rw [← h, hmask, and_operandMask_or_data8]
  cases i with
  | sumb d => exact ⟨.sumb (w.extractLsb' 8 8), rfl, hoperand rfl⟩
  | crcb d => exact ⟨.crcb (w.extractLsb' 8 8), rfl, hoperand rfl⟩
  | _ => exact ⟨_, rfl, h.symm.trans BitVec.and_allOnes⟩

/-- A row selects exactly the words of its commands. -/
theorem selected_iff {w : Word} {i : Instr} :
    w &&& i.row.mask = i.row.pattern ↔ ∃ j : Instr, j.row = i.row ∧ decode w = .cmd j := by
  simp only [decode_eq_cmd_iff]
  constructor
  · exact exists_encode_of_selected
  · rintro ⟨j, hrow, rfl⟩
    exact hrow ▸ encode_and_mask j

/-- Settles O2: a row selects exactly the words of its commands, and a word decodes to one command at most. -/
theorem opcodeMapSelectsCommands : Obligations.OpcodeMapSelectsCommands := by
  unfold Obligations.OpcodeMapSelectsCommands
  refine ⟨rfl, fun w i hd => ?_, fun w => ?_, fun w r hr r' hr' hs hs' => ?_⟩
  · exact ⟨mem_opcodeMap_iff.2 ⟨i, rfl⟩, selected_iff.2 ⟨i, rfl, hd⟩⟩
  · rw [decode_illegal_iff]
    constructor
    · intro hnone r hr hs
      obtain ⟨i, rfl⟩ := mem_opcodeMap_iff.1 hr
      obtain ⟨j, -, hd⟩ := selected_iff.1 hs
      exact hnone ⟨j, hd⟩
    · rintro hnone ⟨i, hd⟩
      exact hnone i.row (mem_opcodeMap_iff.2 ⟨i, rfl⟩) (selected_iff.2 ⟨i, rfl, hd⟩)
  · obtain ⟨i, rfl⟩ := mem_opcodeMap_iff.1 hr
    obtain ⟨i', rfl⟩ := mem_opcodeMap_iff.1 hr'
    obtain ⟨j, hrow, hd⟩ := selected_iff.1 hs
    obtain ⟨j', hrow', hd'⟩ := selected_iff.1 hs'
    cases hd.symm.trans hd'
    exact hrow.symm.trans hrow'

/-- Settles O3: each of the fixed words is decoded by evaluation. -/
theorem commandWordsDecode : Obligations.CommandWordsDecode := by
  unfold Obligations.CommandWordsDecode
  decide

/-! ## The illegal forms -/

theorem exists_instr_of_opcode : ∀ op : BitVec 4, op.toNat < 10 →
    ∃ i ∈ [Instr.nop, .sumclr, .sumb 0, .crcinit, .crcb 0, .sumr, .crcr, .encode, .decode, .clrst],
      op = i.opcode ∧ 0 = i.data8 := by decide

/-- The pairs of OP and DATA8 that commands have: OP at most 9, and DATA8 not 0 only on SUMB and CRCB. -/
theorem exists_instr_iff {op : BitVec 4} {d : Byte} :
    (∃ i : Instr, op = i.opcode ∧ d = i.data8) ↔ op.toNat < 10 ∧ (op = 2 ∨ op = 4 ∨ d = 0) := by
  constructor
  · rintro ⟨i, rfl, rfl⟩
    cases i <;> simp [Instr.opcode, Instr.data8]
  · rintro ⟨hop, rfl | rfl | rfl⟩
    · exact ⟨.sumb d, rfl, rfl⟩
    · exact ⟨.crcb d, rfl, rfl⟩
    · obtain ⟨i, -, hi⟩ := exists_instr_of_opcode op hop
      exact ⟨i, hi⟩

theorem exists_cmd_iff_not_illegalForm {w : Word} : (∃ i, decode w = .cmd i) ↔ ¬ Machine.IllegalForm w := by
  simp only [decode, decodeFields_eq_cmd, exists_and_left, exists_instr_iff, Machine.IllegalForm, not_or, not_and_or,
    not_le, not_not]
  tauto

theorem illegal_iff_illegalForm {w : Word} : (∃ why, decode w = .illegal why) ↔ Machine.IllegalForm w := by
  rw [decode_illegal_iff, exists_cmd_iff_not_illegalForm, not_not]

end Sys2Proof
end

section
/-! PROOF. The ENGINE's turn: what it does on an illegal word, and that it neither reads nor changes what is HOST's, from
which WAIT's schedule follows. -/

namespace Sys2Proof.Machine

/-! ## The ENGINE's turn -/

theorem engineStep_of_cmd {s : State} {i : Instr} (h : decode s.latch.word = .cmd i) : engineStep s = exec i s := by
  unfold engineStep
  rw [h]

theorem engineStep_of_illegal {s : State} {why : IllegalReason} (h : decode s.latch.word = .illegal why) :
    engineStep s = .next (s.raiseError .illegalCmd) := by
  unfold engineStep
  rw [h]

theorem step_engine_of_busy {s : State} {rest : List Event} (hb : s.status.busy = true)
    (ha : s.agenda = .engine :: rest) : step s = engineStep { s with agenda := rest } :=
  (step_of_agenda ha).trans (if_pos hb)

/-- Settles O4: the illegal forms are the words that decode to no command, and the ENGINE raises ILLEGAL_CMD on those. -/
theorem illegalWordsOnlyRaise : Obligations.IllegalWordsOnlyRaise := by
  unfold Obligations.IllegalWordsOnlyRaise
  refine ⟨fun s rest hb ha hform => ?_, fun w hform => exists_cmd_iff_not_illegalForm.2 hform⟩
  obtain ⟨why, hd⟩ := illegal_iff_illegalForm.2 hform
  exact (step_engine_of_busy hb ha).trans (engineStep_of_illegal hd)

/-! ## What is HOST's and no command's -/

/-- s with the operand registers, the rst input, and the model's records of HOST's turns and reads taken from h: the part
of the state that no command reads or changes (10_state R37: operands come from LATCH). -/
def State.withHostSide (s h : State) : State :=
  { s with
    blkBase := h.blkBase
    blkLen := h.blkLen
    payLen := h.payLen
    rst := h.rst
    agenda := h.agenda
    readData := h.readData
    draws := h.draws }

theorem mapNext_withRead {α : Type} (f : State → State) (r : Option α) (k : α → Outcome) :
    mapNext f (withRead r k) = withRead r fun x => mapNext f (k x) := by
  cases r <;> rfl

theorem mapNext_withChecks (h : State) (e : Option ErrCode) (s : State) (body : Outcome) :
    mapNext (·.withHostSide h) (withChecks e s body) =
      withChecks e (s.withHostSide h) (mapNext (·.withHostSide h) body) := by
  cases e <;> rfl

theorem exec_withHostSide (i : Instr) (s h : State) :
    exec i (s.withHostSide h) = mapNext (·.withHostSide h) (exec i s) := by
  cases i with
  | sumr =>
    simp only [exec, execSumr, mapNext_withChecks, mapNext_withRead]
    rfl
  | crcr =>
    simp only [exec, execCrcr, mapNext_withChecks, mapNext_withRead]
    rfl
  | encode =>
    simp only [exec, execEncode, encodeBlock, mapNext_withChecks, mapNext_withRead]
    rfl
  | decode =>
    simp only [exec, execDecode, decodeBlock, mapNext_withChecks, mapNext_withRead]
    rfl
  | nop | sumclr | sumb d | crcinit | crcb d | clrst => rfl

theorem engineStep_withHostSide (s h : State) :
    engineStep (s.withHostSide h) = mapNext (·.withHostSide h) (engineStep s) := by
  cases hd : decode s.latch.word with
  | cmd i =>
    rw [engineStep_of_cmd hd, ← exec_withHostSide]
    exact engineStep_of_cmd hd
  | illegal why =>
    rw [engineStep_of_illegal hd]
    exact engineStep_of_illegal hd

/-- The ENGINE's turn after turns of HOST ends as the ENGINE's step before them would have. -/
theorem step_engine_withHostSide {s u h : State} {rest : List Event} (hb : s.status.busy = true)
    (hu : engineStep s = .next u) (ha : h.agenda = .engine :: rest) :
    step (s.withHostSide h) = .next (u.withHostSide { h with agenda := rest }) := by
  rw [step_engine_of_busy (s := s.withHostSide h) hb ha]
  exact (engineStep_withHostSide s { h with agenda := rest }).trans (congrArg _ hu)

/-! ## WAIT -/

theorem run_succ {s t : State} (h : step s = .next t) (k : Nat) : run (k + 1) s = run k t := by
  simp only [run, Host.Core.run, show core.step s = .next t from h]
  rfl

/-- A round of WAIT on a command in flight reads STATUS and goes on after an ENGINE turn (30_encoding R89, log entry 6). -/
theorem step_wait_of_busy {s : State} {rest : List Event} (hb : s.status.busy = true) (ha : s.agenda = .wait :: rest) :
    step s = .next
      (s.withHostSide { s with agenda := .engine :: .wait :: rest, readData := s.status.word :: s.readData }) := by
  rw [step_of_agenda ha]
  simp only [perform, State.waitRound, State.regRead_of_exact _ (r := .status) rfl, hb]
  rfl

/-- The last round of WAIT reads STATUS and ends. -/
theorem step_wait_of_idle {s : State} {rest : List Event} (hb : s.status.busy = false) (ha : s.agenda = .wait :: rest) :
    step s = .next { s with agenda := rest, readData := s.status.word :: s.readData } := by
  rw [step_of_agenda ha]
  simp only [perform, State.waitRound, State.regRead_of_exact _ (r := .status) rfl, hb]
  rfl

/-- Settles O43: the ENGINE's turn between WAIT's two rounds does what it would have done before the first, since it does
not see the turns and reads of HOST, and it leaves BUSY = 0 for the second round. -/
theorem waitEndsAfterCompletion : Obligations.WaitEndsAfterCompletion := by
  unfold Obligations.WaitEndsAfterCompletion
  intro s rest hb ha hu
  obtain ⟨u, hu⟩ := hu
  obtain ⟨hidle, hdone⟩ := engineStep_busy_done hu
  refine ⟨{ u.withHostSide s with agenda := rest, readData := u.status.word :: s.status.word :: s.readData },
    ?_, hidle, hdone, rfl, rfl⟩
  calc run 3 s
      = run 2 (s.withHostSide
          { s with agenda := .engine :: .wait :: rest, readData := s.status.word :: s.readData }) :=
        run_succ (step_wait_of_busy hb ha) 2
    _ = run 1 (u.withHostSide { s with agenda := .wait :: rest, readData := s.status.word :: s.readData }) :=
        run_succ (step_engine_withHostSide hb hu rfl) 1
    _ = .next { u.withHostSide s with
          agenda := rest
          readData := u.status.word :: s.status.word :: s.readData } :=
        run_succ (by exact step_wait_of_idle hidle rfl) 0

end Sys2Proof.Machine
end

section
/-! PROOF. The two checksum functions: the sum of a list of bytes (40_checksum_engine R100, R103), and the CRC step, where
the bit-serial datapath is the table's because the generator of the table is linear over xor (R105 to R108). -/

namespace Sys2Proof.Machine

/-! ## The additive checksum -/

theorem sumStep_eq_ofNat (a : Half) (d : Byte) : sumStep a d = BitVec.ofNat 16 ((a.toNat + d.toNat) % 65536) := by
  have hd := d.isLt
  apply BitVec.eq_of_toNat_eq
  simp only [sumStep, BitVec.toNat_add, BitVec.toNat_setWidth, BitVec.toNat_ofNat]
  omega

theorem addSum16_eq_ofNat (bs : List Byte) : addSum16 bs = BitVec.ofNat 16 ((bs.map BitVec.toNat).sum % 65536) := by
  apply BitVec.eq_of_toNat_eq
  rw [addSum16_toNat, BitVec.toNat_ofNat, Nat.mod_mod]

theorem addSum16_replicate (n : Nat) (d : Byte) : addSum16 (List.replicate n d) = BitVec.ofNat 16 (n * d.toNat % 65536) := by
  rw [addSum16_eq_ofNat, List.map_replicate, List.sum_replicate, smul_eq_mul]

theorem sum_toNat_le (bs : List Byte) : (bs.map BitVec.toNat).sum ≤ bs.length * 255 := by
  have hbyte : ∀ v ∈ bs.map BitVec.toNat, v ≤ 255 := by
    intro v hv
    obtain ⟨d, -, rfl⟩ := List.mem_map.1 hv
    exact Nat.le_of_lt_succ d.isLt
  simpa using List.sum_le_card_nsmul _ _ hbyte

/-! ## The CRC step by table lookup -/

/-- The mask of R105 changes nothing: `(acc >> 24) xor b` is already an index of the table. -/
theorem crcStepTable_eq (t : Vector Word 256) (acc : Word) (b : Byte) :
    crcStepTable t acc b = acc <<< 8 ^^^ tableEntry t ((acc >>> 24).setWidth 8 ^^^ b) := by
  have hindex : ((acc >>> 24 ^^^ b.setWidth 32) &&& 0xFF).setWidth 8 = (acc >>> 24).setWidth 8 ^^^ b := by
    rw [BitVec.setWidth_and, BitVec.setWidth_xor, BitVec.setWidth_setWidth_of_le _ (by decide), BitVec.setWidth_eq]
    exact BitVec.and_allOnes
  rw [crcStepTable, hindex]

theorem crcStepTable_getLsbD (t : Vector Word 256) (acc : Word) (b : Byte) {k : Nat} (hk : k < 32) :
    (crcStepTable t acc b).getLsbD k =
      ((decide (8 ≤ k) && acc.getLsbD (k - 8)) ^^ (tableEntry t ((acc >>> 24).setWidth 8 ^^^ b)).getLsbD k) := by
  have hbound : decide (8 ≤ k) = !decide (k < 8) := by simp only [← Nat.not_lt, decide_not]
  rw [crcStepTable_eq, BitVec.getLsbD_xor, BitVec.getLsbD_shiftLeft, decide_eq_true hk, Bool.true_and, hbound]

/-- From an accumulator that holds only the index i, a step gives the entry T[i]. -/
theorem crcStepTable_index (t : Vector Word 256) (i : Byte) : crcStepTable t (i.setWidth 32 <<< 24) 0 = tableEntry t i := by
  have hshift : i.setWidth 32 <<< 24 <<< 8 = 0#32 := by
    rw [← BitVec.shiftLeft_add, BitVec.shiftLeft_eq_zero (by decide)]
  have hindex : (i.setWidth 32 <<< 24 >>> 24).setWidth 8 = i := by
    apply BitVec.eq_of_getLsbD_eq
    intro k hk
    simp [hk, show 24 + k < 32 by omega, show k < 32 by omega]
  rw [crcStepTable_eq, hshift, hindex, BitVec.ofNat_eq_ofNat, BitVec.xor_zero, BitVec.zero_xor]

/-! ## The generator of the table is linear over xor -/

theorem polyShift_xor (poly x y : Word) : polyShift poly (x ^^^ y) = polyShift poly x ^^^ polyShift poly y := by
  simp only [polyShift, BitVec.getLsbD_xor, BitVec.shiftLeft_xor_distrib]
  cases x.getLsbD 31 <;> cases y.getLsbD 31 <;> simp [BitVec.xor_assoc]
  case true.false => exact BitVec.xor_comm _ _

theorem polyShifts_xor (poly : Word) (n : Nat) (x y : Word) :
    polyShifts poly n (x ^^^ y) = polyShifts poly n x ^^^ polyShifts poly n y := by
  induction n generalizing x y with
  | zero => rfl
  | succ n ih => simp only [polyShifts, polyShift_xor, ih]

/-- Shifts through which no set bit falls out only shift. -/
theorem polyShifts_of_low (poly : Word) {n : Nat} {y : Word} (hy : ∀ k, 32 ≤ k + n → y.getLsbD k = false) :
    polyShifts poly n y = y <<< n := by
  induction n generalizing y with
  | zero => simp [polyShifts]
  | succ n ih =>
    have hshift : polyShift poly y = y <<< 1 := if_neg (by rw [hy 31 (by omega)]; decide)
    rw [polyShifts, hshift, ih, ← BitVec.shiftLeft_add, Nat.add_comm]
    intro k hk
    rw [BitVec.getLsbD_shiftLeft, hy (k - 1) (by omega), Bool.and_false]

/-! ## The bit-serial CRC step -/

/-- An input bit that stands as bit 31 of y cancels y's share of the feedback. -/
theorem serialBit_xor (poly x y : Word) : serialBit poly (x ^^^ y) (y.getLsbD 31) = polyShift poly x ^^^ y <<< 1 := by
  have hfeedback : ((x ^^^ y).getLsbD 31 ^^ y.getLsbD 31) = x.getLsbD 31 := by simp
  rw [serialBit, hfeedback, polyShift, BitVec.shiftLeft_xor_distrib]
  split_ifs
  · ac_rfl
  · exact BitVec.xor_zero

/-- n bits of b, from bit n - 1 down, leave the generator's n shifts of the accumulator with those bits xored onto its top. -/
theorem foldl_serialBit (poly : Word) (b : Byte) {n : Nat} (hn : n ≤ 32) (x : Word) :
    (List.range n).reverse.foldl (fun a k => serialBit poly a (b.getLsbD k)) (x ^^^ b.setWidth 32 <<< (32 - n)) =
      polyShifts poly n x := by
  induction n generalizing x with
  | zero =>
    rw [BitVec.shiftLeft_eq_zero le_rfl, BitVec.xor_zero]
    rfl
  | succ n ih =>
    have hbit : b.getLsbD n = (b.setWidth 32 <<< (32 - (n + 1))).getLsbD 31 := by
      simp [show ¬ 31 < 31 - n by omega, show 31 - (31 - n) = n by omega]
    have hnext : b.setWidth 32 <<< (32 - (n + 1)) <<< 1 = b.setWidth 32 <<< (32 - n) := by
      rw [← BitVec.shiftLeft_add, show 32 - (n + 1) + 1 = 32 - n by omega]
    rw [List.range_succ, List.reverse_append, List.reverse_singleton, List.singleton_append, List.foldl_cons, hbit,
      serialBit_xor, hnext, ih (by omega), polyShifts]

theorem crcStepSerial_eq (poly acc : Word) (b : Byte) :
    crcStepSerial poly acc b = polyShifts poly 8 (acc ^^^ b.setWidth 32 <<< 24) := by
  have hcancel : acc ^^^ b.setWidth 32 <<< 24 ^^^ b.setWidth 32 <<< 24 = acc := by
    rw [BitVec.xor_assoc, BitVec.xor_self, BitVec.xor_zero]
  have h := foldl_serialBit poly b (n := 8) (by decide) (acc ^^^ b.setWidth 32 <<< 24)
  rw [hcancel] at h
  exact h

/-- The accumulator with a byte xored onto its top: the table index on top of the 24 low bits. -/
theorem xor_top_byte (acc : Word) (b : Byte) :
    acc ^^^ b.setWidth 32 <<< 24 = (acc.setWidth 24).setWidth 32 ^^^ ((acc >>> 24).setWidth 8 ^^^ b).setWidth 32 <<< 24 := by
  apply BitVec.eq_of_getLsbD_eq
  intro k hk
  by_cases h : k < 24
  · simp [h, hk]
  · simp [h, hk, show k - 24 < 8 by omega, show 24 + (k - 24) = k by omega]

/-- For a table generated by poly the bit-serial step is the table step (40_checksum_engine R106). -/
theorem crcStepSerial_eq_table {poly : Word} {t : Vector Word 256} (ht : ∀ i, tableEntry t i = tgen poly i) (acc : Word)
    (b : Byte) : crcStepSerial poly acc b = crcStepTable t acc b := by
  have hlow : polyShifts poly 8 ((acc.setWidth 24).setWidth 32) = (acc.setWidth 24).setWidth 32 <<< 8 :=
    polyShifts_of_low poly fun k hk => by simp [show ¬ k < 24 by omega]
  have hshift : (acc.setWidth 24).setWidth 32 <<< 8 = acc <<< 8 := by
    apply BitVec.eq_of_getLsbD_eq
    intro k hk
    simp [hk, show k - 8 < 24 by omega, show k - 8 < 32 by omega]
  calc crcStepSerial poly acc b
      = polyShifts poly 8
          ((acc.setWidth 24).setWidth 32 ^^^ ((acc >>> 24).setWidth 8 ^^^ b).setWidth 32 <<< 24) := by
        rw [crcStepSerial_eq, xor_top_byte]
    _ = acc <<< 8 ^^^ tgen poly ((acc >>> 24).setWidth 8 ^^^ b) := by
        rw [polyShifts_xor, hlow, hshift, tgen]
    _ = crcStepTable t acc b := by
        rw [crcStepTable_eq, ht]

theorem defaultCrcTable_generated : ∀ i : Byte, tableEntry defaultCrcTable i = tgen 0x04C11DB7 i := by decide +kernel

/-! ## The CRC step on either datapath -/

/-- With well-formed parameters the CRC steps by the table on either datapath (40_checksum_engine R106). -/
theorem crcStep_of_wellFormed {p : Params} (hp : p.WellFormed) : crcStep p = crcStepTable p.crcTable := by
  funext acc b
  unfold crcStep
  split
  · rfl
  case h_2 poly himpl => exact crcStepSerial_eq_table (hp.serialTable poly himpl) acc b

theorem crc32Raw_of_wellFormed {p : Params} (hp : p.WellFormed) (bs : List Byte) :
    crc32Raw p bs = crcRawByTable p.crcTable bs := by
  rw [crc32Raw, crcStep_of_wellFormed hp]
  rfl

/-- Settles O18: the final xor cancels the initial accumulator. -/
theorem crcOfNothingIsZero : Obligations.CrcOfNothingIsZero := by
  unfold Obligations.CrcOfNothingIsZero
  exact fun p => BitVec.xor_self

/-- Settles O19: the entries by evaluation, and a step's bits as the xor of the shifted accumulator and one entry. -/
theorem tableEntriesAreUnsigned : Obligations.TableEntriesAreUnsigned := by
  unfold Obligations.TableEntriesAreUnsigned
  exact ⟨rfl, rfl, rfl, crcStepTable_index, fun t acc b _ => crcStepTable_getLsbD t acc b⟩

end Sys2Proof.Machine
end

section
/-! PROOF. The words of one operation code: the only errors a command's word can have (30_encoding R84), as each command's
rule states them. -/

namespace Sys2Proof

/-- Only SUMB and CRCB carry a DATA8 (30_encoding R81). -/
theorem Instr.data8_eq_zero {i : Instr} (h2 : i.opcode ≠ 2) (h4 : i.opcode ≠ 4) : i.data8 = 0 := by
  cases i with
  | sumb d => exact absurd rfl h2
  | crcb d => exact absurd rfl h4
  | _ => rfl

/-- A command without a DATA8 has one word, and every other word with its OP is illegal (30_encoding R84). -/
theorem illegal_of_opcode_of_ne {w : Word} (i : Instr) (h2 : i.opcode ≠ 2) (h4 : i.opcode ≠ 4)
    (hop : w.extractLsb' 0 4 = i.opcode) (hw : w ≠ encode i) : ∃ why, decode w = .illegal why := by
  rw [decode_illegal_iff]
  rintro ⟨j, hj⟩
  obtain ⟨hrsv1, hrsv0, hopj, hdata8⟩ := encode_eq_iff_fields.1 (decode_eq_cmd_iff.1 hj)
  have hij : i.opcode = j.opcode := hop.symm.trans hopj
  have hzero : i.data8 = j.data8 := (Instr.data8_eq_zero h2 h4).trans (Instr.data8_eq_zero (hij ▸ h2) (hij ▸ h4)).symm
  exact hw (encode_eq_iff_fields.2 ⟨hrsv1, hrsv0, hop, hdata8.trans hzero.symm⟩).symm

/-- A word with the OP of a command that carries a DATA8 is illegal only for a reserved field (30_encoding R84). -/
theorem illegal_iff_reserved {w : Word} (hop : w.extractLsb' 0 4 = 2 ∨ w.extractLsb' 0 4 = 4) :
    (∃ why, decode w = .illegal why) ↔ w.extractLsb' 4 4 ≠ 0 ∨ w.extractLsb' 16 16 ≠ 0 := by
  rw [illegal_iff_illegalForm, Machine.IllegalForm]
  obtain h | h := hop <;> simp [h]

end Sys2Proof
end

section
/-! PROOF. The checksum engine's commands (40_checksum_engine): one byte, a stream of bytes, a latched range, and the
independence of every command from the datapath of the CRC. -/

namespace Sys2Proof.Machine

/-! ## The additive checksum -/

/-- Settles O9: the word has no operand, and the arm is SUM_ACC's update with the completion. -/
theorem sumclrClearsSum : Obligations.SumclrClearsSum := by
  unfold Obligations.SumclrClearsSum
  exact ⟨rfl, fun w => illegal_of_opcode_of_ne .sumclr (by decide) (by decide), fun s => rfl⟩

/-- Settles O10: one step of the sum is the addition modulo 2^16. -/
theorem sumbAddsByte : Obligations.SumbAddsByte := by
  unfold Obligations.SumbAddsByte
  refine ⟨fun d => ?_, fun w hop => illegal_iff_reserved (.inl hop), fun d s => ?_⟩
  · rw [encode_toNat, Nat.mul_comm]
    rfl
  · rw [← sumStep_eq_ofNat]
    rfl

/-! ## A stream of bytes -/

/-- Commands that each take one byte fold their operation over a list of bytes. -/
theorem runCommands_map {α : Type} {i : Byte → Instr} {put : α → State} {op : α → Byte → α}
    (h : ∀ a d, exec (i d) (put a) = .next (put (op a d))) (bs : List Byte) (a : α) :
    runCommands (bs.map i) (put a) = .next (put (bs.foldl op a)) := by
  induction bs generalizing a with
  | nil => rfl
  | cons d bs ih =>
    rw [List.map_cons, runCommands, h]
    exact ih (op a d)

theorem runCommands_sumb (s : State) (a : Half) (bs : List Byte) :
    runCommands (bs.map .sumb) (s.setSum a).complete = .next (s.setSum (bs.foldl sumStep a)).complete :=
  runCommands_map (put := fun v => (s.setSum v).complete) (fun _ _ => rfl) bs a

theorem runCommands_crcb (s : State) (a : Word) (bs : List Byte) :
    runCommands (bs.map .crcb) (s.setCrc a).complete = .next (s.setCrc (bs.foldl (crcStep s.params) a)).complete :=
  runCommands_map (put := fun v => (s.setCrc v).complete) (fun _ _ => rfl) bs a

/-- Settles O12: SUMCLR leaves the fold's initial value, and each SUMB is one step of it; no byte is above 255. -/
theorem streamedSumIsSum : Obligations.StreamedSumIsSum := by
  unfold Obligations.StreamedSumIsSum
  refine ⟨fun s bs => runCommands_sumb s 0 bs, addSum16_toNat, addSum16_replicate 257 0xFF, addSum16_replicate 258 0xFF,
    fun bs hbs => ?_⟩
  have hsum := sum_toNat_le bs
  omega

/-- Settles O16: CRCINIT leaves the fold's initial value, and each CRCB is one step of it. -/
theorem streamedCrcIsCrc : Obligations.StreamedCrcIsCrc := by
  unfold Obligations.StreamedCrcIsCrc
  exact fun s bs => ⟨_, runCommands_crcb s crcOnes bs, rfl, rfl⟩

/-! ## The CRC of one byte -/

/-- Settles O13: CRC_RESULT is CRC_ACC xor all ones. -/
theorem crcinitPresetsCrc : Obligations.CrcinitPresetsCrc := by
  unfold Obligations.CrcinitPresetsCrc
  refine ⟨rfl, fun w => illegal_of_opcode_of_ne .crcinit (by decide) (by decide), fun s => ⟨rfl, fun t ht => ?_⟩⟩
  cases ht
  exact BitVec.xor_self

/-- Settles O14: with well-formed parameters the CRC steps by the table on either datapath. -/
theorem crcbStepsCrc : Obligations.CrcbStepsCrc := by
  unfold Obligations.CrcbStepsCrc
  refine ⟨fun d => ?_, fun w hop => illegal_iff_reserved (.inr hop), fun d s hp => ?_⟩
  · rw [encode_toNat, Nat.mul_comm]
    rfl
  · rw [← crcStepTable_eq, ← crcStep_of_wellFormed hp]
    rfl

/-! ## A latched range -/

/-- The shape of SUMR and CRCR: the RANGE check, then the bytes of the latched range to k. -/
def State.onRange (s : State) (k : List Byte → Outcome) : Outcome :=
  withChecks (rangeError s.params s.latch) s (withRead (s.buf.readBytes s.latch.b s.latch.n) k)

theorem exec_sumr (s : State) : exec .sumr s = s.onRange fun bs => .next (s.setSum (addSum16 bs)).complete := rfl

theorem exec_crcr (s : State) : exec .crcr s = s.onRange fun bs => .next (s.setCrc (crc32Raw s.params bs)).complete := rfl

section OnRange

variable {s : State} {k : List Byte → Outcome}

theorem State.onRange_of_beyond (h : s.params.bufCap.toNat < s.latch.base.toNat + s.latch.len.toNat) :
    s.onRange k = .next { s with status := s.status.failed .range } := by
  have hrange : rangeError s.params s.latch = some .range := if_pos h
  rw [State.onRange, hrange]
  rfl

theorem State.onRange_of_inside (h : s.latch.base.toNat + s.latch.len.toNat ≤ s.params.bufCap.toNat) :
    s.onRange k = withRead (s.buf.readBytes s.latch.base.toNat s.latch.len.toNat) k := by
  rw [State.onRange, (rangeError_eq_none_iff _ _).2 h]
  rfl

theorem State.onRange_of_holds {bs : List Byte} (h : s.latch.base.toNat + s.latch.len.toNat ≤ s.params.bufCap.toNat)
    (hlen : bs.length = s.latch.len.toNat) (hbs : s.buf.Holds s.latch.base.toNat bs) : s.onRange k = k bs := by
  rw [State.onRange_of_inside h, (Memory.readBytes_eq_some_iff _ _ _ _).2 ⟨hlen, hbs⟩, withRead_some]

theorem State.onRange_of_unwritten (h : s.latch.base.toNat + s.latch.len.toNat ≤ s.params.bufCap.toNat)
    (hx : ∃ x, s.latch.base.toNat ≤ x ∧ x < s.latch.base.toNat + s.latch.len.toNat ∧ s.buf.read x = none) :
    s.onRange k = .fault .unwrittenRead := by
  rw [State.onRange_of_inside h, (Memory.readBytes_eq_none_iff _ _ _).2 hx, withRead_none]

end OnRange

/-- Settles O11: SUMR hands the bytes of its range to the sum. -/
theorem sumrSumsRange : Obligations.SumrSumsRange := by
  unfold Obligations.SumrSumsRange
  refine ⟨rfl, fun w => illegal_of_opcode_of_ne .sumr (by decide) (by decide), fun s => ?_⟩
  rw [exec_sumr]
  refine ⟨State.onRange_of_beyond, fun bs h hlen hbs => ?_, State.onRange_of_unwritten⟩
  rw [State.onRange_of_holds h hlen hbs, addSum16_eq_ofNat]
  rfl

/-- Settles O15: CRCR hands the bytes of its range to the CRC, which with well-formed parameters steps by the table. -/
theorem crcrFoldsRange : Obligations.CrcrFoldsRange := by
  unfold Obligations.CrcrFoldsRange
  refine ⟨rfl, fun w => illegal_of_opcode_of_ne .crcr (by decide) (by decide), fun s => ?_⟩
  rw [exec_crcr]
  refine ⟨State.onRange_of_beyond, fun bs hp h hlen hbs => ?_, State.onRange_of_unwritten⟩
  rw [State.onRange_of_holds h hlen hbs, crc32Raw_of_wellFormed hp]
  rfl

/-! ## The datapath of the CRC does not show -/

section Datapath

variable {s : State} (hp : s.params.WellFormed)
include hp

theorem crcStep_withTableDatapath : crcStep s.withTableDatapath.params = crcStep s.params :=
  (crcStep_of_wellFormed hp).symm

theorem crc32Raw_withTableDatapath : crc32Raw s.withTableDatapath.params = crc32Raw s.params := by
  funext bs
  rw [crc32Raw, crcStep_withTableDatapath hp, crc32Raw]

theorem readCrcPart_withTableDatapath : readCrcPart s.withTableDatapath.params = readCrcPart s.params := by
  funext m b n ln
  rw [readCrcPart, crc32Raw_withTableDatapath hp, readCrcPart]

end Datapath

theorem mapNext_withChecks_withTableDatapath (e : Option ErrCode) (s : State) (body : Outcome) :
    mapNext State.withTableDatapath (withChecks e s body) =
      withChecks e s.withTableDatapath (mapNext State.withTableDatapath body) := by
  cases e <;> rfl

/-- Every command computes its CRC by `crcStep`, so with well-formed parameters it does what it would on the table datapath. -/
theorem exec_withTableDatapath {s : State} (hp : s.params.WellFormed) (i : Instr) :
    exec i s.withTableDatapath = mapNext State.withTableDatapath (exec i s) := by
  cases i with
  | nop | clrst | sumclr | sumb | crcinit => rfl
  | crcb d =>
    simp only [exec, execCrcb, crcStep_withTableDatapath hp]
    rfl
  | sumr =>
    simp only [exec, execSumr, mapNext_withChecks_withTableDatapath, mapNext_withRead]
    rfl
  | crcr =>
    simp only [exec, execCrcr, crc32Raw_withTableDatapath hp, mapNext_withChecks_withTableDatapath, mapNext_withRead]
    rfl
  | encode =>
    simp only [exec, execEncode, encodeBlock, crc32Raw_withTableDatapath hp, mapNext_withChecks_withTableDatapath,
      mapNext_withRead]
    rfl
  | decode =>
    simp only [exec, execDecode, decodeBlock, readCrcPart_withTableDatapath hp, mapNext_withChecks_withTableDatapath,
      mapNext_withRead]
    rfl

/-- Settles O17: the generator's linearity for the step, the default table entry by entry, and each command by its CRC. -/
theorem serialDatapathMatchesTable : Obligations.SerialDatapathMatchesTable := by
  unfold Obligations.SerialDatapathMatchesTable
  exact ⟨fun _ _ ht => crcStepSerial_eq_table ht, defaultCrcTable_generated, fun _ i hp => exec_withTableDatapath hp i⟩

end Sys2Proof.Machine
end

section
/-! PROOF. DECODE (41_header_codec R150 to R154): the twelve header bytes of a block give every field and the sum, the length
field gives the CRC part, and the rest of the report follows. -/

namespace Sys2Proof.Machine

/-! ## The header of a block -/

/-- The header of the block at b is h, where h x is the byte at block offset x, 64 to 75 (41_header_codec R140). -/
def Memory.HasHeader (m : Memory) (b : Nat) (h : Nat → Byte) : Prop :=
  ∀ x, 64 ≤ x → x < 76 → m.read (b + x) = some (h x)

/-- The length field of a header. -/
def headerLength (h : Nat → Byte) : Half := h 71 ++ h 70

/-- The fields of a header, each little-endian (41_header_codec R140). -/
def headerFields (h : Nat → Byte) : Fields where
  vw := h 67 ++ h 66 ++ h 65 ++ h 64
  version := h 68
  flags := h 69
  length := headerLength h
  spare := h 73 ++ h 72
  simpleChecksum := h 75 ++ h 74

/-- AddSum16 of the ten bytes before simpleChecksum (41_header_codec R141). -/
def headerSum (h : Nat → Byte) : Half := addSum16 ((List.range' 64 10).map h)

theorem Memory.readBytes_eq_map {m : Memory} {b a n : Nat} {h : Nat → Byte}
    (hm : ∀ x, a ≤ x → x < a + n → m.read (b + x) = some (h x)) :
    m.readBytes (b + a) n = some ((List.range' a n).map h) := by
  rw [Memory.readBytes_eq_some_iff]
  refine ⟨by simp, fun k hk => ?_⟩
  have hk : k < n := by simpa using hk
  rw [Nat.add_assoc, hm (a + k) (by omega) (by omega)]
  simp

theorem leValue_byte (b0 : Byte) : BitVec.ofNat 8 (leValue [b0]) = b0 := by
  apply BitVec.eq_of_toNat_eq
  simp [leValue]

theorem leValue_half (b0 b1 : Byte) : BitVec.ofNat 16 (leValue [b0, b1]) = (b1 ++ b0 : Half) := by
  apply BitVec.eq_of_toNat_eq
  rw [toNat_append_eq_add b1 b0]
  simp only [leValue, BitVec.toNat_ofNat]
  omega

namespace Memory.HasHeader

variable {m : Memory} {b : Nat} {h : Nat → Byte}

theorem readBytes (hh : m.HasHeader b h) {a n : Nat} (ha : 64 ≤ a) (hn : a + n ≤ 76) :
    m.readBytes (b + a) n = some ((List.range' a n).map h) :=
  Memory.readBytes_eq_map fun x h1 h2 => hh x (by omega) (by omega)

theorem readLE (hh : m.HasHeader b h) {a n : Nat} (ha : 64 ≤ a) (hn : a + n ≤ 76) :
    m.readLE (b + a) n = some (leValue ((List.range' a n).map h)) := by
  rw [Memory.readLE_eq, hh.readBytes ha hn, Option.map_some]

theorem readFields (hh : m.HasHeader b h) : readFields m b = some (headerFields h) := by
  simp only [Machine.readFields, hh.readLE (a := 64) (n := 4) (by decide) (by decide),
    hh.readLE (a := 68) (n := 1) (by decide) (by decide), hh.readLE (a := 69) (n := 1) (by decide) (by decide),
    hh.readLE (a := 70) (n := 2) (by decide) (by decide), hh.readLE (a := 72) (n := 2) (by decide) (by decide),
    hh.readLE (a := 74) (n := 2) (by decide) (by decide), List.range', List.map, leValue_byte, leValue_half,
    leValue_four]
  rfl

end Memory.HasHeader

theorem Memory.written_of_readLE {m : Memory} {a n v : Nat} (h : m.readLE a n = some v) {x : Nat} (h1 : a ≤ x)
    (h2 : x < a + n) : m.read x ≠ none := fun hx => by
  rw [(Memory.readLE_eq_none_iff m a n).2 ⟨x, h1, h2, hx⟩] at h
  cases h

/-- The field reads answer only where all twelve header bytes are written: each lies in one of the six fields. -/
theorem written_of_readFields {m : Memory} {b : Nat} {f : Fields} (h : readFields m b = some f) {x : Nat} (h1 : 64 ≤ x)
    (h2 : x < 76) : m.read (b + x) ≠ none := by
  unfold readFields at h
  split at h
  · next hvw hver hfl hln hsp hsc =>
    obtain hx | hx | hx | hx | hx | hx :
      x < 68 ∨ x = 68 ∨ x = 69 ∨ (70 ≤ x ∧ x < 72) ∨ (72 ≤ x ∧ x < 74) ∨ 74 ≤ x := by omega
    · exact Memory.written_of_readLE hvw (by omega) (by omega)
    · exact Memory.written_of_readLE hver (by omega) (by omega)
    · exact Memory.written_of_readLE hfl (by omega) (by omega)
    · exact Memory.written_of_readLE hln (by omega) (by omega)
    · exact Memory.written_of_readLE hsp (by omega) (by omega)
    · exact Memory.written_of_readLE hsc (by omega) (by omega)
  · cases h

theorem exists_hasHeader_of_readFields {m : Memory} {b : Nat} {f : Fields} (h : readFields m b = some f) :
    ∃ g, m.HasHeader b g := by
  refine ⟨fun x => (m.read (b + x)).getD 0, fun x h1 h2 => ?_⟩
  obtain ⟨v, hv⟩ := Option.ne_none_iff_exists'.1 (written_of_readFields h h1 h2)
  simp [hv]

theorem readFields_of_unwritten {m : Memory} {b : Nat} (h : ∃ x, 64 ≤ x ∧ x < 76 ∧ m.read (b + x) = none) :
    readFields m b = none := by
  obtain ⟨x, h1, h2, hx⟩ := h
  cases hf : readFields m b with
  | none => rfl
  | some f => exact absurd hx (written_of_readFields hf h1 h2)

/-! ## The CRC part -/

section CrcPart

variable {p : Params} {m : Memory} {b n ln : Nat}

theorem readCrcPart_of_skipped (h : ln = 0 ∨ n < ln * 4) :
    readCrcPart p m b n ln = some ⟨0, crcOnes, .notEvaluated⟩ :=
  if_neg (by omega)

variable (h0 : ln ≠ 0) (hn : ln * 4 ≤ n)
include h0 hn

theorem readCrcPart_of_reads {st : Nat} {covered : List Byte} (hst : m.readLE (b + (ln * 4 - 4)) 4 = some st)
    (hcovered : m.readBytes b (ln * 4 - 4) = some covered) :
    readCrcPart p m b n ln = some ⟨BitVec.ofNat 32 st, crc32Raw p covered,
      if BitVec.ofNat 32 st = crc32Raw p covered ^^^ crcOnes then .valid else .invalid⟩ := by
  simp only [readCrcPart, if_pos (And.intro h0 hn), hst, hcovered]

/-- The range the CRC covers and the CRC field are together the first `ln * 4` bytes of the block (41_header_codec R141). -/
theorem readCrcPart_of_unwritten (h : ∃ x, x < ln * 4 ∧ m.read (b + x) = none) : readCrcPart p m b n ln = none := by
  obtain ⟨x, hx, hnone⟩ := h
  simp only [readCrcPart, if_pos (And.intro h0 hn)]
  by_cases hp : x < ln * 4 - 4
  · have hcovered : m.readBytes b (ln * 4 - 4) = none :=
      (Memory.readBytes_eq_none_iff _ _ _).2 ⟨b + x, by omega, by omega, hnone⟩
    simp [hcovered]
  · have hst : m.readLE (b + (ln * 4 - 4)) 4 = none :=
      (Memory.readLE_eq_none_iff _ _ _).2 ⟨b + x, by omega, by omega, hnone⟩
    simp [hst]

end CrcPart

/-! ## DECODE on a header -/

/-- What DECODE leaves for the header h and the CRC part c. -/
def State.decoded (s : State) (h : Nat → Byte) (c : CrcPart) : State :=
  (s.setDecoded (reportOf s.params (headerFields h) (headerSum h) c) (headerSum h) c.acc).complete

@[simp] theorem State.decoded_dec (s : State) (h : Nat → Byte) (c : CrcPart) :
    (s.decoded h c).dec = reportOf s.params (headerFields h) (headerSum h) c := rfl
@[simp] theorem State.decoded_sumAcc (s : State) (h : Nat → Byte) (c : CrcPart) :
    (s.decoded h c).sumAcc = headerSum h := rfl
@[simp] theorem State.decoded_crcAcc (s : State) (h : Nat → Byte) (c : CrcPart) : (s.decoded h c).crcAcc = c.acc := rfl
@[simp] theorem State.decoded_buf (s : State) (h : Nat → Byte) (c : CrcPart) : (s.decoded h c).buf = s.buf := rfl

theorem decodeError_of_beyond {p : Params} {l : Latch} (h : p.bufCap.toNat < l.b + l.n) :
    decodeError p l = some .range := if_pos h

theorem decodeError_of_short {p : Params} {l : Latch} (h : l.b + l.n ≤ p.bufCap.toNat)
    (hn : l.n < decodeMinBytes p.decodeMinLen) : decodeError p l = some .short :=
  (if_neg (Nat.not_lt.2 h)).trans (if_pos hn)

section Decode

variable {s t : State} {h : Nat → Byte}

theorem exec_decode_of_error {code : ErrCode} (he : decodeError s.params s.latch = some code) :
    exec .decode s = .next { s with status := s.status.failed code } := by
  simp only [exec, execDecode, he, withChecks_some]
  rfl

theorem exec_decode_of_unwritten (he : decodeError s.params s.latch = none)
    (hx : ∃ x, 64 ≤ x ∧ x < 76 ∧ s.buf.read (s.latch.b + x) = none) : exec .decode s = .fault .unwrittenRead := by
  simp only [exec, execDecode, he, withChecks_none, decodeBlock, readFields_of_unwritten hx, withRead_none]

theorem exec_decode_of_header (he : decodeError s.params s.latch = none) (hh : s.buf.HasHeader s.latch.b h) :
    exec .decode s =
      withRead (readCrcPart s.params s.buf s.latch.b s.latch.n (headerLength h).toNat) fun c => .next (s.decoded h c) := by
  simp only [exec, execDecode, he, withChecks_none, decodeBlock, hh.readFields, withRead_some,
    hh.readBytes (a := 64) (n := 10) (by decide) (by decide)]
  rfl

/-- A DECODE that completes with its checks passed has read a header and a CRC part. -/
theorem exec_decode_completed (he : decodeError s.params s.latch = none) (ht : exec .decode s = .next t) :
    ∃ h c, s.buf.HasHeader s.latch.b h ∧
      readCrcPart s.params s.buf s.latch.b s.latch.n (headerLength h).toNat = some c ∧ t = s.decoded h c := by
  obtain ⟨code, hcode, -⟩ | ⟨-, f, -, -, hf, -⟩ := execDecode_eq_next.1 ht
  · cases he.symm.trans hcode
  obtain ⟨h, hh⟩ := exists_hasHeader_of_readFields hf
  rw [exec_decode_of_header he hh, withRead_eq_next] at ht
  obtain ⟨c, hc, hnext⟩ := ht
  cases hnext
  exact ⟨h, c, hh, hc, rfl⟩

end Decode

/-- The bytes of a list as a header, from block offset 64 on. -/
def headerOf (bs : List Byte) (x : Nat) : Byte := bs.getD (x - 64) 0

theorem Memory.Holds.hasHeader {m : Memory} {b : Nat} {bs : List Byte} (h : m.Holds (b + 64) bs) (hlen : bs.length = 12) :
    m.HasHeader b (headerOf bs) := fun x h1 h2 => by
  have hx := h (x - 64) (by omega)
  rw [show b + 64 + (x - 64) = b + x by omega] at hx
  rw [hx, headerOf, List.getD_eq_getElem]

theorem addSum16_ten (b0 b1 b2 b3 b4 b5 b6 b7 b8 b9 : Byte) :
    addSum16 [b0, b1, b2, b3, b4, b5, b6, b7, b8, b9] =
      BitVec.ofNat 16 (b0.toNat + b1.toNat + b2.toNat + b3.toNat + b4.toNat + b5.toNat + b6.toNat + b7.toNat +
        b8.toNat + b9.toNat) := by
  apply BitVec.eq_of_toNat_eq
  rw [addSum16_toNat]
  simp [Nat.add_assoc]

/-- Settles O22: the header's bytes give the fields, and the length field says whether the CRC is evaluated. -/
theorem decodeReportsBlock : Obligations.DecodeReportsBlock := by
  unfold Obligations.DecodeReportsBlock
  refine ⟨rfl, fun w => illegal_of_opcode_of_ne .decode (by decide) (by decide), ?_⟩
  intro s b0 b1 b2 b3 b4 b5 b6 b7 b8 b9 b10 b11 b n minLen vw ln sc sum report
  refine ⟨fun h => exec_decode_of_error (decodeError_of_beyond h),
    fun h hn => exec_decode_of_error (decodeError_of_short h hn),
    fun h hn => exec_decode_of_unwritten ((decodeError_eq_none_iff _ _).2 ⟨h, hn⟩), fun h hn hbs => ?_⟩
  have hsum : headerSum (headerOf [b0, b1, b2, b3, b4, b5, b6, b7, b8, b9, b10, b11]) = sum :=
    addSum16_ten b0 b1 b2 b3 b4 b5 b6 b7 b8 b9
  have hdecode : exec .decode s = withRead (readCrcPart s.params s.buf b n ln.toNat) fun c => .next
      { s with dec := report c.stored c.st, sumAcc := sum, crcAcc := c.acc, status := s.status.finished } := by
    rw [exec_decode_of_header ((decodeError_eq_none_iff _ _).2 ⟨h, hn⟩) (hbs.hasHeader rfl)]
    unfold State.decoded
    rw [hsum]
    rfl
  rw [hdecode]
  refine ⟨fun hskip => ?_, fun h0 hfits hx => ?_, fun covered c0 c1 c2 c3 h0 hfits hlen hcovered hst => ?_⟩
  · rw [readCrcPart_of_skipped (hskip.imp_left (BitVec.toNat_inj (y := 0)).2), withRead_some]
    rfl
  · rw [readCrcPart_of_unwritten (mt (BitVec.toNat_inj (y := 0)).1 h0) hfits hx, withRead_none]
  · rw [readCrcPart_of_reads (mt (BitVec.toNat_inj (y := 0)).1 h0) hfits hst.readLE
      ((Memory.readBytes_eq_some_iff _ _ _ _).2 ⟨hlen, hcovered⟩), withRead_some, leValue_four]
    rfl

/-- Settles O23: an error is the same error again, and a DECODE reads nothing that it writes. -/
theorem decodeIsIdempotent : Obligations.DecodeIsIdempotent := by
  unfold Obligations.DecodeIsIdempotent
  intro s t ht
  obtain ⟨code, he, rfl⟩ | ⟨he, -⟩ := execDecode_eq_next.1 ht
  · exact ⟨rfl, exec_decode_of_error he⟩
  · obtain ⟨h, c, hh, hc, rfl⟩ := exec_decode_completed he ht
    refine ⟨rfl, (exec_decode_of_header (s := s.decoded h c) he hh).trans ?_⟩
    exact congrArg (withRead · _) hc

theorem lenValid_corrected_iff (ln : Nat) : lenValid .corrected ln = true ↔ 21 ≤ ln ∧ ln ≤ 16384 := decide_eq_true_iff

/-- Settles O24: LEN_CHECK enters nothing of a DECODE but LEN_OK. -/
theorem lengthRuleOnlySetsLenOk : Obligations.LengthRuleOnlySetsLenOk := by
  unfold Obligations.LengthRuleOnlySetsLenOk
  intro s t he ht
  obtain ⟨h, c, hh, hc, rfl⟩ := exec_decode_completed he ht
  have hok : (s.decoded h c).dec.lenOk = lenValid s.params.lenCheck (s.decoded h c).dec.length.toNat := rfl
  refine ⟨fun hrule => ?_, fun hrule => ?_, fun rule => ⟨lenValid rule (headerLength h).toNat, ?_⟩⟩
  · rw [hok, hrule, lenValid_corrected_iff]
  · rw [hok, hrule, lenValid]
  · refine (exec_decode_of_header (s := { s with params := { s.params with lenCheck := rule } }) he hh).trans ?_
    exact congrArg (withRead · _) hc

/-! ## One changed header byte -/

theorem Memory.HasHeader.write {m : Memory} {b : Nat} {h : Nat → Byte} (hh : m.HasHeader b h) (x : Nat) (v : Byte) :
    (m.write (b + x) v).HasHeader b (Function.update h x v) := fun y h1 h2 => by
  rw [Memory.read_write]
  by_cases hy : y = x
  · subst hy
    rw [if_pos rfl, Function.update_self]
  · rw [if_neg (by omega), Function.update_of_ne hy, hh y h1 h2]

/-- The header's sum with the byte at x taken out of it. -/
theorem headerSum_update_toNat (h : Nat → Byte) {x : Nat} (h1 : 64 ≤ x) (h2 : x ≤ 73) (v : Byte) :
    (headerSum (Function.update h x v)).toNat = (v.toNat + ∑ k ∈ Finset.Ico 64 74 \ {x}, (h k).toNat) % 65536 := by
  have hmem : x ∈ Finset.Ico 64 74 := Finset.mem_Ico.2 ⟨h1, by omega⟩
  have hsum : (((List.range' 64 10).map (Function.update h x v)).map BitVec.toNat).sum =
      ∑ k ∈ Finset.Ico 64 74, Function.update (BitVec.toNat ∘ h) x v.toNat k := by
    rw [← Function.comp_update, List.map_map]
    rfl
  rw [headerSum, addSum16_toNat, hsum, Finset.sum_update_of_mem hmem]
  rfl

/-- A changed byte changes the sum, by less than 256 and so by no multiple of 65536 (41_header_codec R155). -/
theorem headerSum_update_ne {h : Nat → Byte} {x : Nat} (h1 : 64 ≤ x) (h2 : x ≤ 73) {v : Byte} (hv : v ≠ h x) :
    headerSum (Function.update h x v) ≠ headerSum h := by
  intro heq
  have hnew := headerSum_update_toNat h h1 h2 v
  have hold := headerSum_update_toNat h h1 h2 (h x)
  rw [heq] at hnew
  rw [Function.update_eq_self] at hold
  have hne : v.toNat ≠ (h x).toNat := mt BitVec.eq_of_toNat_eq hv
  have hbyte := v.isLt
  have hbyte' := (h x).isLt
  omega

theorem headerFields_vw_byte (h : Nat → Byte) {x : Nat} (h1 : 64 ≤ x) (h2 : x ≤ 67) :
    (headerFields h).vw.extractLsb' (8 * (x - 64)) 8 = h x := by
  apply BitVec.eq_of_toNat_eq
  have hvw : (headerFields h).vw.toNat =
      (h 64).toNat + 2 ^ 8 * ((h 65).toNat + 2 ^ 8 * ((h 66).toNat + 2 ^ 8 * (h 67).toNat)) := by
    rw [headerFields]
    rw [toNat_append_eq_add (h 67 ++ h 66 ++ h 65) (h 64), toNat_append_eq_add (h 67 ++ h 66) (h 65),
      toNat_append_eq_add (h 67) (h 66)]
  rw [← byte_of_div, hvw, BitVec.toNat_ofNat]
  interval_cases x <;> simp <;> omega

theorem headerFields_vw_update_ne {h : Nat → Byte} {x : Nat} (h1 : 64 ≤ x) (h2 : x ≤ 67) {v : Byte} (hv : v ≠ h x) :
    (headerFields (Function.update h x v)).vw ≠ (headerFields h).vw := fun heq => hv <| by
  rw [← headerFields_vw_byte h h1 h2, ← heq, headerFields_vw_byte _ h1 h2, Function.update_self]

theorem headerFields_simpleChecksum_update (h : Nat → Byte) {x : Nat} (h2 : x ≤ 73) (v : Byte) :
    (headerFields (Function.update h x v)).simpleChecksum = (headerFields h).simpleChecksum := by
  rw [headerFields, Function.update_of_ne (a := 75) (by omega), Function.update_of_ne (a := 74) (by omega), headerFields]

/-- Settles O26: the second DECODE reads the first one's header with one byte updated. -/
theorem changedHeaderByteIsDetected : Obligations.ChangedHeaderByteIsDetected := by
  unfold Obligations.ChangedHeaderByteIsDetected
  intro s t u x v v' he ht hsum h64 h73 hread hv hu
  obtain ⟨h, c, hh, -, rfl⟩ := exec_decode_completed he ht
  obtain rfl : v = h x := Option.some.inj (hread.symm.trans (hh x h64 (by omega)))
  have hdecode := exec_decode_of_header (s := { s with buf := s.buf.write (s.latch.b + x) v' }) he (hh.write x v')
  obtain ⟨c', -, hnext⟩ := withRead_eq_next.1 (hdecode.symm.trans hu)
  cases hnext
  refine ⟨?_, fun h67 hvw => ?_, ?_, ?_⟩
  · have hstored : (headerFields h).simpleChecksum = headerSum h := beq_iff_eq.1 hsum
    refine beq_eq_false_iff_ne.2 ?_
    rw [headerFields_simpleChecksum_update h h73, hstored]
    exact (headerSum_update_ne h64 h73 hv).symm
  · have hmagic : (headerFields h).vw = s.params.validationWord := beq_iff_eq.1 hvw
    exact beq_eq_false_iff_ne.2 (hmagic ▸ headerFields_vw_update_ne h64 h67 hv)
  · rintro rfl hzero
    exact beq_eq_false_iff_ne.2 (by simpa [headerFields, hzero] using hv)
  · rintro (rfl | rfl | rfl) <;> exact ⟨rfl, rfl, rfl⟩

end Sys2Proof.Machine
end

section
/-! PROOF. ENCODE (41_header_codec R145, R146): its errors, its one fault, and the bytes it writes; and the DECODE of the
block it leaves (R149). -/

namespace Sys2Proof.Machine

/-! ## ENCODE's checks -/

theorem Latch.lw_eq (l : Latch) : (l.paylen.toNat + 3) / 4 + 1 = l.lw := by
  rw [Latch.lw, ceil4_eq]
  rfl

section Checks

variable {p : Params} {l : Latch}

theorem encodeError_of_beyond (h : p.bufCap.toNat < l.b + l.n) : encodeError p l = some .range := if_pos h

theorem encodeError_of_short (h : l.b + l.n ≤ p.bufCap.toNat) (hn : l.n < 76) : encodeError p l = some .short :=
  (if_neg (Nat.not_lt.2 h)).trans (if_pos hn)

theorem encodeError_of_lenfield (h : l.b + l.n ≤ p.bufCap.toNat) (hn : 76 ≤ l.n) (hlw : 0xFFFF < l.lw) :
    encodeError p l = some .lenfield :=
  (if_neg (Nat.not_lt.2 h)).trans ((if_neg (Nat.not_lt.2 hn)).trans (if_pos hlw))

theorem encodeError_of_oversize (h : l.b + l.n ≤ p.bufCap.toNat) (hn : 76 ≤ l.n) (hlw : l.lw ≤ 0xFFFF)
    (hover : l.n < l.lw * 4) : encodeError p l = some .oversize :=
  (if_neg (Nat.not_lt.2 h)).trans ((if_neg (Nat.not_lt.2 hn)).trans ((if_neg (Nat.not_lt.2 hlw)).trans (if_pos hover)))

end Checks

/-! ## What ENCODE leaves -/

/-- The buffer ENCODE leaves when its CRC covers these bytes. It is irreducible, so that no comparison of two states unfolds
the writes. -/
@[irreducible] def State.encodedBuf (s : State) (covered : List Byte) : Memory :=
  s.withHeader.writeLE (s.latch.b + s.latch.p) 4 (crc32 s.params covered).toNat

/-- What ENCODE leaves when its CRC covers these bytes. -/
def State.encoded (s : State) (covered : List Byte) : State :=
  { s with
    buf := s.encodedBuf covered
    sumAcc := hdrSum s.params.validationWord s.latch.lw
    crcAcc := crc32Raw s.params covered
    encLenw := BitVec.ofNat 16 s.latch.lw
    status := s.status.finished }

@[simp] theorem State.encoded_params (s : State) (covered : List Byte) : (s.encoded covered).params = s.params := rfl
@[simp] theorem State.encoded_latch (s : State) (covered : List Byte) : (s.encoded covered).latch = s.latch := rfl
@[simp] theorem State.encoded_buf (s : State) (covered : List Byte) : (s.encoded covered).buf = s.encodedBuf covered := rfl

section Encode

variable {s t : State}

theorem exec_encode_of_error {code : ErrCode} (he : encodeError s.params s.latch = some code) :
    exec .encode s = .next { s with status := s.status.failed code } := by
  simp only [exec, execEncode, he, withChecks_some]
  rfl

theorem exec_encode_of_checks (he : encodeError s.params s.latch = none) :
    exec .encode s = withRead (s.withHeader.readBytes s.latch.b s.latch.p) fun covered => .next (s.encoded covered) := by
  simp only [exec, execEncode, he, withChecks_none, encodeBlock_eq, State.encoded, State.encodedBuf]
  rfl

theorem exec_encode_completed (he : encodeError s.params s.latch = none) (ht : exec .encode s = .next t) :
    ∃ covered, s.withHeader.readBytes s.latch.b s.latch.p = some covered ∧ t = s.encoded covered := by
  rw [exec_encode_of_checks he, withRead_eq_next] at ht
  obtain ⟨covered, hcovered, hnext⟩ := ht
  cases hnext
  exact ⟨covered, hcovered, rfl⟩

theorem State.read_withHeader_add (s : State) (x : Nat) :
    s.withHeader.read (s.latch.b + x) =
      if 64 ≤ x ∧ x < 76 then
        some (headerByte s.params.validationWord s.latch.lw (hdrSum s.params.validationWord s.latch.lw) x)
      else s.buf.read (s.latch.b + x) := by
  rw [State.read_withHeader]
  simp only [Nat.add_sub_cancel_left, Nat.add_le_add_iff_left, Nat.add_lt_add_iff_left]

/-- The bytes of the CRC range that ENCODE did not write itself decide whether it can read that range. -/
theorem readBytes_withHeader_eq_none_iff (s : State) (n : Nat) :
    s.withHeader.readBytes s.latch.b n = none ↔
      ∃ x, x < n ∧ (x < 64 ∨ 76 ≤ x) ∧ s.buf.read (s.latch.b + x) = none := by
  rw [Memory.readBytes_eq_none_iff]
  constructor
  · rintro ⟨a, h1, h2, hnone⟩
    obtain ⟨x, rfl⟩ := Nat.exists_eq_add_of_le h1
    rw [State.read_withHeader_add] at hnone
    split_ifs at hnone with hx
    exact ⟨x, by omega, by omega, hnone⟩
  · rintro ⟨x, h1, h2, hnone⟩
    refine ⟨s.latch.b + x, by omega, by omega, ?_⟩
    rw [State.read_withHeader_add, if_neg (by omega), hnone]

/-- A byte of the buffer ENCODE leaves: the CRC write comes last (41_header_codec R146). -/
theorem State.read_encodedBuf (s : State) (covered : List Byte) (a : Nat) :
    (s.encodedBuf covered).read a =
      if s.latch.b + s.latch.p ≤ a ∧ a < s.latch.b + s.latch.p + 4 then
        some ((crc32 s.params covered).extractLsb' (8 * (a - (s.latch.b + s.latch.p))) 8)
      else s.withHeader.read a := by
  rw [State.encodedBuf, Memory.read_writeLE, byte_of_div]

end Encode

/-- Settles O20: the checks in their order, then the one range ENCODE reads that it has not written itself. -/
theorem encodeWritesBlock : Obligations.EncodeWritesBlock := by
  unfold Obligations.EncodeWritesBlock
  refine ⟨rfl, fun w => illegal_of_opcode_of_ne .encode (by decide) (by decide), fun s => ?_⟩
  rw [Latch.lw_eq]
  refine ⟨fun h => exec_encode_of_error (encodeError_of_beyond h),
    fun h hn => exec_encode_of_error (encodeError_of_short h hn),
    fun h hn hlw => exec_encode_of_error (encodeError_of_lenfield h hn hlw),
    fun h hn hlw hover => exec_encode_of_error (encodeError_of_oversize h hn hlw hover),
    fun h hn hlw hfits => ?_⟩
  have hencode := exec_encode_of_checks ((encodeError_eq_none_iff _ _).2 ⟨h, hn, hlw, hfits⟩)
  refine ⟨fun hunwritten => ?_, fun hwritten => ?_⟩
  · rw [hencode, (readBytes_withHeader_eq_none_iff s s.latch.p).2 hunwritten, withRead_none]
  · obtain ⟨covered, hcovered⟩ : ∃ covered, s.withHeader.readBytes s.latch.b s.latch.p = some covered := by
      rw [← Option.ne_none_iff_exists', Ne, readBytes_withHeader_eq_none_iff]
      rintro ⟨x, h1, h2, hnone⟩
      exact hwritten x h1 h2 hnone
    rw [hcovered, withRead_some] at hencode
    obtain ⟨hlen, hbytes⟩ := (Memory.readBytes_eq_some_iff _ _ _ _).1 hcovered
    refine ⟨s.encoded covered, covered, hencode, hlen, fun x hx => ?_, rfl, fun a => ?_⟩
    · rw [← hbytes x hx, State.read_withHeader_add]
      rfl
    · rw [State.encoded_buf, State.read_encodedBuf, State.read_withHeader]
      rfl

/-! ## DECODE after ENCODE -/

theorem word_eq_bytes (v : Word) :
    (v.extractLsb' 24 8 ++ v.extractLsb' 16 8 ++ v.extractLsb' 8 8 ++ v.extractLsb' 0 8 : Word) = v := by
  have h3 : v.extractLsb' 24 8 ++ v.extractLsb' 16 8 = v.extractLsb' 16 16 :=
    BitVec.extractLsb'_append_extractLsb'_eq_extractLsb' rfl
  have h2 : v.extractLsb' 16 16 ++ v.extractLsb' 8 8 = v.extractLsb' 8 24 :=
    BitVec.extractLsb'_append_extractLsb'_eq_extractLsb' rfl
  have h1 : v.extractLsb' 8 24 ++ v.extractLsb' 0 8 = v.extractLsb' 0 32 :=
    BitVec.extractLsb'_append_extractLsb'_eq_extractLsb' rfl
  rw [h3, h2, h1, BitVec.extractLsb'_eq_self]

theorem half_eq_bytes (v : Half) : (v.extractLsb' 8 8 ++ v.extractLsb' 0 8 : Half) = v := by
  have h1 : v.extractLsb' 8 8 ++ v.extractLsb' 0 8 = v.extractLsb' 0 16 :=
    BitVec.extractLsb'_append_extractLsb'_eq_extractLsb' rfl
  rw [h1, BitVec.extractLsb'_eq_self]

theorem ofNat_half_eq_bytes (n : Nat) : (BitVec.ofNat 8 (n / 256) ++ BitVec.ofNat 8 n : Half) = BitVec.ofNat 16 n := by
  apply BitVec.eq_of_toNat_eq
  rw [toNat_append_eq_add (BitVec.ofNat 8 (n / 256)) (BitVec.ofNat 8 n)]
  simp only [BitVec.toNat_ofNat]
  omega

/-- ENCODE's header read back (41_header_codec R149). -/
theorem headerFields_headerByte (vw : Word) (lw : Nat) (sum : Half) :
    headerFields (headerByte vw lw sum) = ⟨vw, 0, 0, BitVec.ofNat 16 lw, 0, sum⟩ := by
  simp only [headerFields, headerLength, headerByte, word_eq_bytes, half_eq_bytes, ofNat_half_eq_bytes]
  rfl

theorem headerLength_headerByte (vw : Word) (lw : Nat) (sum : Half) :
    headerLength (headerByte vw lw sum) = BitVec.ofNat 16 lw := ofNat_half_eq_bytes lw

theorem headerSum_headerByte (vw : Word) (lw : Nat) (sum : Half) : headerSum (headerByte vw lw sum) = hdrSum vw lw :=
  addSum16_summedBytes vw lw

section RoundTrip

variable {s : State} {covered : List Byte}

/-- The CRC field of these lengths lies outside the header (41_header_codec R144). -/
theorem State.encodedBuf_hasHeader (hlw : s.latch.lw ≤ 16 ∨ 20 ≤ s.latch.lw) :
    (s.encodedBuf covered).HasHeader s.latch.b
      (headerByte s.params.validationWord s.latch.lw (hdrSum s.params.validationWord s.latch.lw)) := fun x h1 h2 => by
  have hp := s.latch.p_add_four
  rw [State.read_encodedBuf, if_neg (by omega), State.read_withHeader_add, if_pos ⟨h1, h2⟩]

/-- The CRC field does not overlap the range it is computed from, and holds the CRC of it. -/
theorem State.readCrcPart_encodedBuf (hcovered : s.withHeader.readBytes s.latch.b s.latch.p = some covered)
    (hfits : s.latch.lw * 4 ≤ s.latch.n) :
    readCrcPart s.params (s.encodedBuf covered) s.latch.b s.latch.n s.latch.lw =
      some ⟨crc32 s.params covered, crc32Raw s.params covered, .valid⟩ := by
  have hkept : (s.encodedBuf covered).readBytes s.latch.b s.latch.p = some covered := by
    rw [← hcovered]
    exact Memory.readBytes_congr fun x h1 h2 => by rw [State.read_encodedBuf, if_neg (by omega)]
  have hstored : (s.encodedBuf covered).readLE (s.latch.b + s.latch.p) 4 =
      some ((crc32 s.params covered).toNat % 256 ^ 4) := by
    rw [State.encodedBuf, Memory.readLE_writeLE]
  have hlt : (crc32 s.params covered).toNat < 256 ^ 4 := (crc32 s.params covered).isLt
  rw [Nat.mod_eq_of_lt hlt] at hstored
  have hpos := s.latch.lw_pos
  rw [readCrcPart_of_reads (by omega) hfits hstored hkept, BitVec.ofNat_toNat, BitVec.setWidth_eq, crc32, if_pos rfl]

end RoundTrip

/-- Settles O25: the header and the CRC field that ENCODE leaves apart are what DECODE reads back. -/
theorem encodeDecodeRoundTrip : Obligations.EncodeDecodeRoundTrip := by
  unfold Obligations.EncodeDecodeRoundTrip
  intro s t
  rw [Latch.lw_eq]
  intro n lw minLen h hn hlw hfits ht
  obtain ⟨covered, hcovered, rfl⟩ := exec_encode_completed ((encodeError_eq_none_iff _ _).2 ⟨h, hn, hlw, hfits⟩) ht
  refine ⟨fun hshort => exec_decode_of_error (s := s.encoded covered) (decodeError_of_short h hshort),
    fun hmin hrange => ?_⟩
  have hlength : (BitVec.ofNat 16 s.latch.lw).toNat = s.latch.lw := Nat.mod_eq_of_lt (Nat.lt_succ_of_le hlw)
  have hchecks : decodeError s.params s.latch = none := (decodeError_eq_none_iff _ _).2 ⟨h, hmin⟩
  have hdecode := exec_decode_of_header (s := s.encoded covered) hchecks (State.encodedBuf_hasHeader hrange)
  rw [State.encoded_buf, State.encoded_params, State.encoded_latch, headerLength_headerByte, hlength,
    State.readCrcPart_encodedBuf hcovered hfits, withRead_some] at hdecode
  refine ⟨_, hdecode, ?_⟩
  simp only [State.decoded_dec, State.decoded_sumAcc, State.decoded_crcAcc, State.decoded_buf, reportOf,
    headerFields_headerByte, headerSum_headerByte, State.encoded_params, hlength, beq_self_eq_true, true_and, and_true]
  exact ⟨rfl, fun hrule => by rw [hrule, lenValid_corrected_iff], rfl, rfl⟩

end Sys2Proof.Machine
end

section
/-! PROOF. A HOST write to CMD (60_exceptions R212), and the control commands NOP and CLRST (42_control R180, R181). -/

namespace Sys2Proof.Machine

/-! ## A write to CMD -/

section CmdWrite

variable {s : State} {rest : List Event} {w : Word}

theorem step_cmdWrite_of_busy (hb : s.status.busy = true) (hrst : s.rst = false)
    (ha : s.agenda = .host (.regWrite 0x00 .word w) :: rest) :
    step s = .next (State.dropCommand { s with agenda := rest }) :=
  (step_regWrite_of_deasserted hrst .cmd ha).trans
    (congrArg _ (State.submit_of_busy (s := { s with agenda := rest }) hb w))

theorem step_cmdWrite_of_idle (hb : s.status.busy = false) (hrst : s.rst = false)
    (ha : s.agenda = .host (.regWrite 0x00 .word w) :: rest) :
    step s = .next (State.accept { s with agenda := rest } w) :=
  (step_regWrite_of_deasserted hrst .cmd ha).trans
    (congrArg _ (State.submit_of_idle (s := { s with agenda := rest }) hb w))

theorem run_one (s : State) : run 1 s = step s := by
  cases h : step s with
  | next t => exact run_succ h 0
  | fault r | refused r =>
    simp only [run, Host.Core.run, show core.step s = _ from h]
    rfl

/-- The life cycle of a command: an idle machine accepts its word, and the ENGINE performs it at its turn (60_exceptions
R212, R213). -/
theorem run_two_of_cmdWrite {i : Instr} (hd : decode w = .cmd i) (hb : s.status.busy = false) (hrst : s.rst = false)
    (ha : s.agenda = .host (.regWrite 0x00 .word w) :: .engine :: rest) :
    run 2 s = exec i (State.accept { s with agenda := rest } w) := by
  calc run 2 s
    _ = run 1 (State.accept { s with agenda := .engine :: rest } w) := run_succ (step_cmdWrite_of_idle hb hrst ha) 1
    _ = step (State.accept { s with agenda := .engine :: rest } w) := run_one _
    _ = engineStep (State.accept { s with agenda := rest } w) := step_engine_of_busy rfl rfl
    _ = exec i (State.accept { s with agenda := rest } w) := engineStep_of_cmd hd

end CmdWrite

/-! ## The control commands -/

/-- Settles O7: acceptance clears the earlier error and keeps OVR, and NOP adds only the completion to it. -/
theorem nopOnlyCompletes : Obligations.NopOnlyCompletes := by
  unfold Obligations.NopOnlyCompletes
  refine ⟨rfl, fun s => rfl, fun s rest hb hrst ha => ?_, fun s rest => step_cmdWrite_of_busy,
    fun w => illegal_of_opcode_of_ne .nop (by decide) (by decide)⟩
  exact run_two_of_cmdWrite (decode_encode .nop) hb hrst ha

theorem exec_ovr_of_ne_clrst {i : Instr} {s t : State} (hi : i ≠ .clrst) (h : exec i s = .next t) :
    t.status.ovr = s.status.ovr :=
  (exec_next_cases h).ovr_cases.resolve_right fun ⟨hclrst, _⟩ => hi hclrst

/-- Settles O8: of the states a command can end in only CLRST's has another OVR, and reset gives STATUS its reset value. -/
theorem clrstClearsOverrun : Obligations.ClrstClearsOverrun := by
  unfold Obligations.ClrstClearsOverrun
  exact ⟨rfl, fun s => rfl, fun i s t => exec_ovr_of_ne_clrst, fun s rest ha => ⟨_, step_of_agenda ha, rfl⟩,
    fun s rest => step_cmdWrite_of_busy, fun w => illegal_of_opcode_of_ne .clrst (by decide) (by decide)⟩

end Sys2Proof.Machine
end

section
/-! PROOF. Errors (60_exceptions R214, R215, R217): what a command does about the error flags, with the cause of each code
(`ErrorCause`); and the turns at which a command is accepted, performed or refused (R212, R213, R225, R227). -/

namespace Sys2Proof.Machine

/-! ## The causes of the codes -/

/-- The codes a command may end with, each with the cause 60_exceptions R215 names. -/
inductive ErrorCause (i : Instr) (p : Params) (l : Latch) : ErrCode → Prop where
  | range (hi : i ∈ [Instr.sumr, .crcr, .encode, .decode]) (h : p.bufCap.toNat < l.b + l.n) : ErrorCause i p l .range
  | encodeShort (hi : i = .encode) (h : l.n < 76) : ErrorCause i p l .short
  | decodeShort (hi : i = .decode) (h : l.n < decodeMinBytes p.decodeMinLen) : ErrorCause i p l .short
  | lenfield (hi : i = .encode) (h : 0xFFFF < l.lw) : ErrorCause i p l .lenfield
  | oversize (hi : i = .encode) (h : l.n < l.lw * 4) : ErrorCause i p l .oversize

namespace ErrorCause

variable {i : Instr} {p : Params} {l : Latch} {code : ErrCode}

theorem of_rangeError (hi : i ∈ [Instr.sumr, .crcr, .encode, .decode]) (h : rangeError p l = some code) :
    ErrorCause i p l code := by
  unfold rangeError at h
  split_ifs at h with hbeyond
  cases h
  exact .range hi hbeyond

theorem of_encodeError (h : encodeError p l = some code) : ErrorCause .encode p l code := by
  unfold encodeError at h
  split_ifs at h with hbeyond hshort hfield hover
  all_goals cases h
  · exact .range (by decide) hbeyond
  · exact .encodeShort rfl hshort
  · exact .lenfield rfl hfield
  · exact .oversize rfl hover

theorem of_decodeError (h : decodeError p l = some code) : ErrorCause .decode p l code := by
  unfold decodeError at h
  split_ifs at h with hbeyond hshort
  all_goals cases h
  · exact .range (by decide) hbeyond
  · exact .decodeShort rfl hshort

theorem ne_none (h : ErrorCause i p l code) : code ≠ .none := by
  cases h <;> exact nofun

end ErrorCause

/-- A command that answers a next state has raised an error for its cause and done nothing else, or has kept ERR and
ERRCODE (60_exceptions R214). -/
theorem exec_error_cases {i : Instr} {s t : State} (h : exec i s = .next t) :
    (∃ code, ErrorCause i s.params s.latch code ∧ t = s.raiseError code) ∨
      t.status.err = s.status.err ∧ t.status.errcode = s.status.errcode := by
  cases i with
  | sumr =>
    obtain ⟨code, he, rfl⟩ | ⟨-, bs, -, rfl⟩ := execSumr_eq_next.1 h
    · exact .inl ⟨code, .of_rangeError (by decide) he, rfl⟩
    · exact .inr ⟨rfl, rfl⟩
  | crcr =>
    obtain ⟨code, he, rfl⟩ | ⟨-, bs, -, rfl⟩ := execCrcr_eq_next.1 h
    · exact .inl ⟨code, .of_rangeError (by decide) he, rfl⟩
    · exact .inr ⟨rfl, rfl⟩
  | encode =>
    obtain ⟨code, he, rfl⟩ | ⟨he, -⟩ := execEncode_eq_next.1 h
    · exact .inl ⟨code, .of_encodeError he, rfl⟩
    · obtain ⟨covered, -, rfl⟩ := exec_encode_completed he h
      exact .inr ⟨rfl, rfl⟩
  | decode =>
    obtain ⟨code, he, rfl⟩ | ⟨he, -⟩ := execDecode_eq_next.1 h
    · exact .inl ⟨code, .of_decodeError he, rfl⟩
    · obtain ⟨header, c, -, -, rfl⟩ := exec_decode_completed he h
      exact .inr ⟨rfl, rfl⟩
  | nop | sumclr | sumb d | crcinit | crcb d | clrst =>
    cases h
    exact .inr ⟨rfl, rfl⟩

/-- Settles O28: a command that kept ERR cannot end with ERR 1, and one that raised an error has done nothing else. -/
theorem errorsChangeOnlyStatus : Obligations.ErrorsChangeOnlyStatus := by
  unfold Obligations.ErrorsChangeOnlyStatus
  intro i s t herr h hraised
  obtain ⟨code, hcause, rfl⟩ | ⟨hkept, -⟩ := exec_error_cases h
  · exact ⟨hcause.ne_none, rfl⟩
  · rw [hkept, herr] at hraised
    cases hraised

/-! ## The ENGINE's turn when the agenda is used up -/

theorem step_of_no_agenda {s : State} (ha : s.agenda = []) : step s = engineTurn s := by
  unfold step takeTurn
  rw [ha]

theorem engineTurn_of_busy {s : State} (hb : s.status.busy = true) : engineTurn s = engineStep s := if_pos hb

theorem engineTurn_of_idle {s : State} (hb : s.status.busy = false) : engineTurn s = .next s :=
  if_neg (Bool.eq_false_iff.1 hb)

/-- Settles O29: an illegal word raises ILLEGAL_CMD, and a command with ERRCODE NONE before it ends with NONE or with the
code of a cause. -/
theorem errorCodesPerCommand : Obligations.ErrorCodesPerCommand := by
  unfold Obligations.ErrorCodesPerCommand
  refine ⟨⟨rfl, rfl, rfl, rfl, rfl, rfl⟩, fun s hb ha why hd => ?_, fun i s t hnone h => ?_⟩
  · refine ⟨s.raiseError .illegalCmd, ?_, rfl⟩
    rw [step_of_no_agenda ha, engineTurn_of_busy hb, engineStep_of_illegal hd]
  · rw [Latch.lw_eq]
    obtain ⟨code, hcause, rfl⟩ | ⟨-, hkept⟩ := exec_error_cases h
    · cases hcause with
      | range hi hbeyond => exact ⟨hi, hbeyond⟩
      | encodeShort hi hshort => exact .inl ⟨hi, hshort⟩
      | decodeShort hi hshort => exact .inr ⟨hi, hshort⟩
      | lenfield hi hfield => exact ⟨hi, hfield⟩
      | oversize hi hover => exact ⟨hi, hover⟩
    · rw [hkept, hnone]
      trivial

/-! ## The order of the checks -/

/-- All four commands that use a latched block make the RANGE check first (60_exceptions R217). -/
theorem exec_of_beyond {s : State} (h : s.params.bufCap.toNat < s.latch.b + s.latch.n) :
    ∀ i ∈ [Instr.sumr, .crcr, .encode, .decode], exec i s = .next { s with status := s.status.failed .range } := by
  simp only [List.forall_mem_cons]
  exact ⟨State.onRange_of_beyond h, State.onRange_of_beyond h, exec_encode_of_error (encodeError_of_beyond h),
    exec_decode_of_error (decodeError_of_beyond h), nofun⟩

theorem exec_decode_status {s t : State} (he : decodeError s.params s.latch = none) (h : exec .decode s = .next t) :
    t.status = s.status.finished := by
  obtain ⟨header, c, -, -, rfl⟩ := exec_decode_completed he h
  rfl

/-- Settles O21: a CMD write looks at BUSY alone, the ENGINE at the word before it performs a command, and the command's
checks answer with the first that fails. -/
theorem errorPriority : Obligations.ErrorPriority := by
  unfold Obligations.ErrorPriority
  refine ⟨fun s w rest => step_cmdWrite_of_busy,
    fun s why rest hb ha hd => (step_engine_of_busy hb ha).trans (engineStep_of_illegal hd), fun s => ?_⟩
  rw [Latch.lw_eq]
  exact ⟨fun h => exec_of_beyond (Nat.not_le.1 h),
    fun h hn => exec_encode_of_error (encodeError_of_short h hn),
    fun h hn => exec_decode_of_error (decodeError_of_short h hn),
    fun h hn hlw => exec_encode_of_error (encodeError_of_lenfield h hn hlw),
    fun h hn hlw hover => exec_encode_of_error (encodeError_of_oversize h hn hlw hover),
    fun h hn t => exec_decode_status ((decodeError_eq_none_iff _ _).2 ⟨h, hn⟩)⟩

/-! ## Acceptance, performance and refusal -/

/-- Settles O5: with BUSY = 1 the ENGINE's turn is its step, and its step is the decoded command. -/
theorem engineRunsDecodedCommand : Obligations.EngineRunsDecodedCommand := by
  unfold Obligations.EngineRunsDecodedCommand
  intro s i hb hd
  refine ⟨fun ha => ?_, fun rest ha => (step_engine_of_busy hb ha).trans (engineStep_of_cmd hd)⟩
  rw [step_of_no_agenda ha, engineTurn_of_busy hb, engineStep_of_cmd hd]

theorem State.withFetchWord_toNat (s : State) (w : Word) : s.withFetchWord 32 w.toNat = s.placeCommand w := by
  rw [State.withFetchWord, Nat.mod_eq_of_lt w.isLt, BitVec.ofNat_toNat, BitVec.setWidth_eq]

/-- Settles O6: the placed word is accepted with the ENGINE's turn next, and it decodes to its command. -/
theorem placedWordRunsNext : Obligations.PlacedWordRunsNext := by
  unfold Obligations.PlacedWordRunsNext
  intro s i
  rw [State.withFetchWord_toNat]
  calc step (s.placeCommand (encode i))
    _ = engineStep (s.accept (encode i)) := step_engine_of_busy rfl rfl
    _ = exec i (s.accept (encode i)) := engineStep_of_cmd (decode_encode i)

/-- Settles O32: BUSY alone decides whether a CMD write is dropped or accepted, whatever the word. -/
theorem cmdWriteAcceptsOrDrops : Obligations.CmdWriteAcceptsOrDrops := by
  unfold Obligations.CmdWriteAcceptsOrDrops
  intro s w rest hrst ha
  exact ⟨fun hb => step_cmdWrite_of_busy hb hrst ha, fun hb => step_cmdWrite_of_idle hb hrst ha⟩

/-- Settles O41: a second HOST's turn is performed as the refusal R225 names. -/
theorem secondHostIsRefused : Obligations.SecondHostIsRefused := by
  unfold Obligations.SecondHostIsRefused
  intro s a rest ha
  exact step_of_agenda ha

/-- Settles O42: with BUSY = 0 the ENGINE's turn is no step, whether it stands on the agenda or the agenda is used up. -/
theorem idleEngineHasNoStep : Obligations.IdleEngineHasNoStep := by
  unfold Obligations.IdleEngineHasNoStep
  intro s hb
  exact ⟨fun ha => (step_of_no_agenda ha).trans (engineTurn_of_idle hb),
    fun rest ha => (step_of_agenda ha).trans (engineTurn_of_idle (s := { s with agenda := rest }) hb)⟩

end Sys2Proof.Machine
end

section
/-! PROOF. Reset (70_reset_and_hazards R240, R241) and the hazards of an unwritten byte (R248) and of an operand register
written while a command is in flight (R250). -/

namespace Sys2Proof.Machine

/-! ## Reset -/

theorem State.assertReset_registersReset (s : State) : s.assertReset.RegistersReset :=
  ⟨rfl, rfl, rfl, rfl, rfl, rfl, rfl, rfl⟩

/-- Settles O44: rst asserted is `State.assertReset`, and a CMD write with rst asserted leaves the registers as they are. -/
theorem resetRestoresRegisters : Obligations.ResetRestoresRegisters := by
  unfold Obligations.ResetRestoresRegisters
  refine ⟨fun s rest ha => ?_, fun s w rest hrst ha => ?_, ⟨rfl, rfl, rfl, rfl, rfl, rfl, rfl, rfl⟩⟩
  · exact ⟨_, step_of_agenda ha, State.assertReset_registersReset _, rfl, rfl, rfl, BitVec.xor_self, rfl, rfl, rfl, rfl, rfl⟩
  · rw [step_regWrite .cmd ha, hrst, if_pos rfl]

/-- The command in flight is an ENCODE whose checks pass: the one command whose abandoning costs bytes of BUF
(70_reset_and_hazards R241, log entry 13). -/
def State.WritingEncode (s : State) : Prop :=
  s.status.busy = true ∧ decode s.latch.word = .cmd .encode ∧ encodeError s.params s.latch = none

theorem State.bufAfterReset_of_kept {s : State} (h : ¬ s.WritingEncode) : s.bufAfterReset = s.buf := if_neg h

theorem State.read_bufAfterReset {s : State} (h : s.WritingEncode) (a : Nat) :
    s.bufAfterReset.read a =
      if (s.latch.b + 64 ≤ a ∧ a < s.latch.b + 76) ∨ (s.latch.b + s.latch.p ≤ a ∧ a < s.latch.b + s.latch.p + 4)
      then none else s.buf.read a := by
  have hbuf : s.bufAfterReset = (s.buf.erase (s.latch.b + 64) 12).erase (s.latch.b + s.latch.p) 4 := if_pos h
  rw [hbuf, Memory.read_erase, Memory.read_erase, ← ite_or]
  exact if_congr or_comm rfl rfl

/-- Settles O45: an ENCODE's checks pass exactly under the four inequalities, and only then does reset erase its write
set. -/
theorem resetKeepsBuffer : Obligations.ResetKeepsBuffer := by
  unfold Obligations.ResetKeepsBuffer
  refine ⟨Memory.read_nil, fun s rest ha => ⟨_, step_of_agenda ha, fun hother => ?_, fun hb hd => ?_⟩⟩
  · exact State.bufAfterReset_of_kept (s := { s with agenda := rest }) fun ⟨hb, hd, _⟩ => hother ⟨hb, hd⟩
  · rw [Latch.lw_eq]
    refine ⟨fun hchecks => ?_, fun hchecks => ?_⟩
    · exact State.read_bufAfterReset (s := { s with agenda := rest }) ⟨hb, hd, (encodeError_eq_none_iff _ _).2 hchecks⟩
    · exact State.bufAfterReset_of_kept (s := { s with agenda := rest }) fun ⟨_, _, he⟩ =>
        hchecks ((encodeError_eq_none_iff _ _).1 he)

/-! ## Unwritten bytes -/

/-- The length field that stands in the buffer is the header's (41_header_codec R140). -/
theorem Memory.HasHeader.headerLength_eq {m : Memory} {b : Nat} {h : Nat → Byte} (hh : m.HasHeader b h) {ln0 ln1 : Byte}
    (hln : m.Holds (b + 70) [ln0, ln1]) : headerLength h = (ln1 ++ ln0 : Half) := by
  have h0 : h 70 = ln0 := Option.some.inj ((hh 70 (by decide) (by decide)).symm.trans (hln 0 Nat.two_pos))
  have h1 : h 71 = ln1 := Option.some.inj ((hh 71 (by decide) (by decide)).symm.trans (hln 1 Nat.one_lt_two))
  rw [headerLength, h0, h1]

/-- A DECODE that evaluates the CRC reads all the bytes its length field declares (41_header_codec R150, R153). -/
theorem exec_decode_of_unwritten_declared {s : State} {ln0 ln1 : Byte} (he : decodeError s.params s.latch = none)
    (hln : s.buf.Holds (s.latch.b + 70) [ln0, ln1]) (h0 : (ln1 ++ ln0 : Half) ≠ 0)
    (hn : (ln1 ++ ln0 : Half).toNat * 4 ≤ s.latch.n)
    (hx : ∃ x, x < (ln1 ++ ln0 : Half).toNat * 4 ∧ s.buf.read (s.latch.b + x) = none) :
    exec .decode s = .fault .unwrittenRead := by
  cases hf : readFields s.buf s.latch.b with
  | none => simp only [exec, execDecode, he, withChecks_none, decodeBlock, hf, withRead_none]
  | some f =>
    obtain ⟨h, hh⟩ := exists_hasHeader_of_readFields hf
    rw [exec_decode_of_header he hh, hh.headerLength_eq hln,
      readCrcPart_of_unwritten (fun hz => h0 (BitVec.eq_of_toNat_eq hz)) hn hx, withRead_none]

/-- Settles O31: each command and each HOST read faults where a range it reads has an unwritten byte. -/
theorem unwrittenByteFaults : Obligations.UnwrittenByteFaults := by
  unfold Obligations.UnwrittenByteFaults
  intro s
  refine ⟨fun hrange ⟨x, hlt, hx⟩ => ?_, fun he hx => ?_, exec_decode_of_unwritten,
    fun ln0 ln1 => exec_decode_of_unwritten_declared, fun a w rest hb ha hlegal hx => ?_⟩
  · have hinside := (rangeError_eq_none_iff _ _).1 hrange
    have hunwritten : ∃ y, s.latch.b ≤ y ∧ y < s.latch.b + s.latch.n ∧ s.buf.read y = none :=
      ⟨s.latch.b + x, Nat.le_add_right _ _, Nat.add_lt_add_left hlt _, hx⟩
    exact ⟨State.onRange_of_unwritten hinside hunwritten, State.onRange_of_unwritten hinside hunwritten⟩
  · rw [exec_encode_of_checks he, (readBytes_withHeader_eq_none_iff s s.latch.p).2 hx, withRead_none]
  · rw [step_bufRead_of_legal hb hlegal ha, (Memory.readLE_eq_none_iff _ _ _).2 hx, withRead_none]

/-! ## Operand writes with a command in flight -/

theorem run_of_stop {s : State} (h : ¬ Safe (step s)) (k : Nat) : run (k + 1) s = step s := by
  cases hs : step s with
  | next t => exact absurd ⟨t, hs⟩ h
  | fault r | refused r =>
    simp only [run, Host.Core.run, show core.step s = _ from hs]
    rfl

/-- With rst deasserted a write of an operand register changes HOST's side alone (20_memory R55, R64). -/
theorem step_operandWrite {r : Reg} (hr : r ∈ [Reg.blkBase, .blkLen, .payLen]) {h : State} (hrst : h.rst = false)
    (s : State) (v : Word) (rest : List Event) :
    step (s.withHostSide { h with agenda := .host (.regWrite r.offset .word v) :: rest }) =
      .next (s.withHostSide { h.regWrite r v with agenda := rest }) := by
  refine (step_regWrite_of_deasserted ?_ r rfl).trans ?_
  · exact hrst
  · simp only [List.mem_cons, List.not_mem_nil, or_false] at hr
    obtain rfl | rfl | rfl := hr <;> rfl

/-- Where the ENGINE's step stops, it does so whatever HOST's side holds. -/
theorem step_engine_of_stop {s h : State} {rest : List Event} (hb : s.status.busy = true)
    (hstop : ¬ Safe (engineStep s)) (ha : h.agenda = .engine :: rest) : step (s.withHostSide h) = engineStep s := by
  rw [step_engine_of_busy (s := s.withHostSide h) hb ha]
  refine (engineStep_withHostSide s { h with agenda := rest }).trans ?_
  cases ho : engineStep s with
  | next u => exact absurd ⟨u, ho⟩ hstop
  | fault f | refused f => rfl

/-- Settles O33: the ENGINE's step acts on its side of the state and an operand write on HOST's, so they commute; where the
ENGINE's step stops, both runs end there. -/
theorem operandWritesDoNotReachCommand : Obligations.OperandWritesDoNotReachCommand := by
  unfold Obligations.OperandWritesDoNotReachCommand
  intro s r v rest hb hrst hr
  have hwrite := run_succ (step_operandWrite hr hrst s v (.engine :: rest)) 1
  by_cases hsafe : Safe (engineStep s)
  · obtain ⟨u, hu⟩ := hsafe
    have hengine := run_succ (step_engine_withHostSide
      (h := { s with agenda := .engine :: .host (.regWrite r.offset .word v) :: rest }) hb hu rfl) 1
    calc run 2 { s with agenda := .host (.regWrite r.offset .word v) :: .engine :: rest }
      _ = step (s.withHostSide { s.regWrite r v with agenda := .engine :: rest }) := hwrite.trans (run_one _)
      _ = .next (u.withHostSide { s.regWrite r v with agenda := rest }) := step_engine_withHostSide hb hu rfl
      _ = step (u.withHostSide { s with agenda := .host (.regWrite r.offset .word v) :: rest }) :=
        (step_operandWrite hr hrst u v rest).symm
      _ = run 2 { s with agenda := .engine :: .host (.regWrite r.offset .word v) :: rest } :=
        (hengine.trans (run_one _)).symm
  · have hengine : step { s with agenda := .engine :: .host (.regWrite r.offset .word v) :: rest } = engineStep s :=
      step_engine_of_stop (h := { s with agenda := .engine :: .host (.regWrite r.offset .word v) :: rest }) hb hsafe rfl
    calc run 2 { s with agenda := .host (.regWrite r.offset .word v) :: .engine :: rest }
      _ = step (s.withHostSide { s.regWrite r v with agenda := .engine :: rest }) := hwrite.trans (run_one _)
      _ = engineStep s := step_engine_of_stop hb hsafe rfl
      _ = step { s with agenda := .engine :: .host (.regWrite r.offset .word v) :: rest } := hengine.symm
      _ = run 2 { s with agenda := .engine :: .host (.regWrite r.offset .word v) :: rest } :=
        (run_of_stop (hengine.symm ▸ hsafe) 1).symm

end Sys2Proof.Machine
end
